-- ==== Sys2Proof/Word.lean ====
section
/-! DEFINITION. The bit-vector types of the block: bytes, 16-bit length fields and 32-bit register words (R9, R25). -/

namespace Sys2Proof

/-- A byte, bits 7 to 0 (R9). -/
abbrev Byte := BitVec 8

/-- A 16-bit length or count field (R25: `LEN`, `PLEN`, `CNT`). -/
abbrev Half := BitVec 16

/-- A 32-bit register or command word (R25, R80). -/
abbrev Word := BitVec 32

end Sys2Proof
end

