-- ==== Sys2Proof/Syntax.lean ====
section
/-! DEFINITION. The instructions: one constructor per row of spec/opcode_table.json. The nine `CMD` rows are command
words (R81). The five `WIRE` rows are wire classes (R88): their words are the 25-bit key of the frame registers (R89),
which the engine looks up when DECODE consumes the frame (R147). -/

namespace Sys2Proof

/-- One constructor per row of spec/opcode_table.json. -/
inductive Instr where
  /-- NOP, 0x00000000 (R100). -/
  | nop
  /-- PARSE, 0x00000001 (R103). -/
  | parse
  /-- SERIALIZE, 0x00000002 (R109). -/
  | serialize
  /-- CHECKSUM, 0x00000003 (R115). -/
  | checksum
  /-- DECODE, 0x00000004 (R145). -/
  | decode
  /-- BUILD_LOGOFF, 0x00000010 (R132). -/
  | buildLogoff
  /-- BUILD_LOGIN, 0x00000011 (R134). -/
  | buildLogin
  /-- BUILD_SUB_ALL, 0x00000012 (R136). -/
  | buildSubAll
  /-- BUILD_SUB_LOCO, `0x00000013 | (hi << 8) | (lo << 16)` (R138): `hi` is `A0`, `lo` is `A1` (R82). -/
  | buildSubLoco (hi lo : Byte)
  /-- LOGOFF, the wire class `[0x30, 0x00]` with no extended header (R88). `xh` is the register byte `F_XH.XH`, which
  the row masks out (R89). -/
  | logoff (xh : Byte)
  /-- LOGIN, the wire class `[0x10, 0x01]` with no extended header (R88); `xh` as for LOGOFF. -/
  | login (xh : Byte)
  /-- SUBSCRIBE_ALL, the wire class `[0x50, 0x00]`, extended header 0x00 (R88). -/
  | subscribeAll
  /-- SUBSCRIBE_ONE, the wire class `[0x40, 0x00]`, extended header 0xE3 (R88). -/
  | subscribeOne
  /-- LOCO_STATUS, the wire class `[0x40, 0x00]`, extended header 0xEF (R88, R147). -/
  | locoStatus
deriving DecidableEq, Repr

/-- The `CMD` rows of the table (R89: "A command row has format `CMD`"); the others are `WIRE` rows. -/
def Instr.isCommand : Instr → Bool
  | .nop => true
  | .parse => true
  | .serialize => true
  | .checksum => true
  | .decode => true
  | .buildLogoff => true
  | .buildLogin => true
  | .buildSubAll => true
  | .buildSubLoco _ _ => true
  | .logoff _ => false
  | .login _ => false
  | .subscribeAll => false
  | .subscribeOne => false
  | .locoStatus => false

/-- A line of the assembler syntax of R90, before its operands have been checked: operands are numbers of any size. -/
inductive AsmLine where
  | nop
  | parse
  | serialize
  | checksum
  | decode
  | buildLogoff
  | buildLogin
  | buildSubAll
  | buildSubLoco (hi lo : Nat)
deriving DecidableEq, Repr

end Sys2Proof
end

