-- ==== Sys2Proof/Decode.lean ====
section
/-! DEFINITION. The decoder of command words (R80, R81, R84) and of wire-class keys (R88, R89), the encoder, and the
assembler of R90. -/

namespace Sys2Proof

/-- Why a word is no row of the table. For a command word each of the first three is `BAD_COMMAND` (R84, R180). -/
inductive DecodeError where
  /-- R84 case 2: "Its `RSVD` field is not 0." -/
  | rsvdNotZero
  /-- R84 case 1: "Its `OP` is not in rule R81's map". -/
  | unknownOpcode
  /-- R84 case 3: the row fixes `A0` or `A1` at 0 and that field is not 0. -/
  | operandNotZero
  /-- Fewer than four bytes: a command word is always 32 bits (R87). -/
  | truncated
deriving DecidableEq, Repr

/-- `OP`, bits 7:0 (R80). -/
def opField (w : Word) : Byte := w.extractLsb' 0 8

/-- `A0`, bits 15:8 (R80). -/
def a0Field (w : Word) : Byte := w.extractLsb' 8 8

/-- `A1`, bits 23:16 (R80). -/
def a1Field (w : Word) : Byte := w.extractLsb' 16 8

/-- `RSVD`, bits 31:24 (R80). -/
def rsvdField (w : Word) : Byte := w.extractLsb' 24 8

/-- The command word with the given `OP`, `A0`, `A1` and `RSVD` = 0 (R80). -/
def commandWord (op a0 a1 : Byte) : Word :=
  op.setWidth 32 ||| (a0.setWidth 32 <<< 8) ||| (a1.setWidth 32 <<< 16)

/-- R81's rows whose `A0` and `A1` are fixed at 0, by `OP`. -/
def fixedCommand (op : Byte) : Option Instr :=
  if op = 0x00#8 then some .nop
  else if op = 0x01#8 then some .parse
  else if op = 0x02#8 then some .serialize
  else if op = 0x03#8 then some .checksum
  else if op = 0x04#8 then some .decode
  else if op = 0x10#8 then some .buildLogoff
  else if op = 0x11#8 then some .buildLogin
  else if op = 0x12#8 then some .buildSubAll
  else none

/-- The command word's instruction, checked in the order of R180: `RSVD`, then `OP`, then `A0` and `A1` where the row
fixes them at 0. -/
def decodeCommand (w : Word) : Except DecodeError Instr :=
  if rsvdField w ≠ 0#8 then .error .rsvdNotZero
  else if opField w = 0x13#8 then .ok (.buildSubLoco (a0Field w) (a1Field w))
  else
    match fixedCommand (opField w) with
    | none => .error .unknownOpcode
    | some i => if a0Field w = 0#8 ∧ a1Field w = 0#8 then .ok i else .error .operandNotZero

/-- R89's key, `HDR0 | (HDR1 << 8) | (XH << 16) | (XH_VALID << 24)`. -/
def wireKey (hdr0 hdr1 xh : Byte) (xhValid : Bool) : BitVec 25 :=
  hdr0.setWidth 25 ||| (hdr1.setWidth 25 <<< 8) ||| (xh.setWidth 25 <<< 16) ||| ((BitVec.ofBool xhValid).setWidth 25 <<< 24)

/-- `HDR0` of a key (R89). -/
def keyHdr0 (k : BitVec 25) : Byte := k.extractLsb' 0 8

/-- `HDR1` of a key (R89). -/
def keyHdr1 (k : BitVec 25) : Byte := k.extractLsb' 8 8

/-- `XH` of a key (R89). -/
def keyXh (k : BitVec 25) : Byte := k.extractLsb' 16 8

/-- `XH_VALID` of a key (R89). -/
def keyXhValid (k : BitVec 25) : Bool := k.getLsbD 24

/-- The wire class of a key (R88, R89); `none` for "Any other header and extended header" (R88). -/
def decodeWire (k : BitVec 25) : Option Instr :=
  if keyXhValid k then
    if keyHdr0 k = 0x50#8 ∧ keyHdr1 k = 0x00#8 ∧ keyXh k = 0x00#8 then some .subscribeAll
    else if keyHdr0 k = 0x40#8 ∧ keyHdr1 k = 0x00#8 ∧ keyXh k = 0xE3#8 then some .subscribeOne
    else if keyHdr0 k = 0x40#8 ∧ keyHdr1 k = 0x00#8 ∧ keyXh k = 0xEF#8 then some .locoStatus
    else none
  else
    if keyHdr0 k = 0x30#8 ∧ keyHdr1 k = 0x00#8 then some (.logoff (keyXh k))
    else if keyHdr0 k = 0x10#8 ∧ keyHdr1 k = 0x01#8 then some (.login (keyXh k))
    else none

/-- A table row's instruction from its word: a command word (R81), else a key in bits 24:0 (R89). The two sets of words
are disjoint, so the order of the two attempts does not matter; the error is the command decoder's. -/
def decodeRow (w : Word) : Except DecodeError Instr :=
  match decodeCommand w with
  | .ok i => .ok i
  | .error e =>
    match decodeWire (w.setWidth 25) with
    | some i => .ok i
    | none => .error e

/-- The four bytes of a word, byte 0 first (R55: "byte `o` is bits 7:0, byte `o+1` bits 15:8, ..."). -/
def bytesOfWord (w : Word) : List Byte :=
  [w.extractLsb' 0 8, w.extractLsb' 8 8, w.extractLsb' 16 8, w.extractLsb' 24 8]

/-- A word from its four bytes, low byte first (R55, R57). -/
def wordOfBytes (b0 b1 b2 b3 : Byte) : Word :=
  b0.setWidth 32 ||| (b1.setWidth 32 <<< 8) ||| (b2.setWidth 32 <<< 16) ||| (b3.setWidth 32 <<< 24)

/-- The decoder on bytes, total: the first four are the word, the rest is given back. -/
def decodeBytes : List Byte → Except DecodeError (Instr × List Byte)
  | b0 :: b1 :: b2 :: b3 :: rest =>
    match decodeRow (wordOfBytes b0 b1 b2 b3) with
    | .ok i => .ok (i, rest)
    | .error e => .error e
  | _ => .error .truncated

/-- The word of an instruction (R81, R89, R90), the inverse of `decodeRow`. -/
def encode : Instr → Word
  | .nop => commandWord 0x00#8 0#8 0#8
  | .parse => commandWord 0x01#8 0#8 0#8
  | .serialize => commandWord 0x02#8 0#8 0#8
  | .checksum => commandWord 0x03#8 0#8 0#8
  | .decode => commandWord 0x04#8 0#8 0#8
  | .buildLogoff => commandWord 0x10#8 0#8 0#8
  | .buildLogin => commandWord 0x11#8 0#8 0#8
  | .buildSubAll => commandWord 0x12#8 0#8 0#8
  | .buildSubLoco hi lo => commandWord 0x13#8 hi lo
  | .logoff xh => (wireKey 0x30#8 0x00#8 xh false).setWidth 32
  | .login xh => (wireKey 0x10#8 0x01#8 xh false).setWidth 32
  | .subscribeAll => (wireKey 0x50#8 0x00#8 0x00#8 true).setWidth 32
  | .subscribeOne => (wireKey 0x40#8 0x00#8 0xE3#8 true).setWidth 32
  | .locoStatus => (wireKey 0x40#8 0x00#8 0xEF#8 true).setWidth 32

/-- R90: an assembler line's instruction, or an assembly error (`none`) for an operand out of 0..255. -/
def assemble : AsmLine → Option Instr
  | .nop => some .nop
  | .parse => some .parse
  | .serialize => some .serialize
  | .checksum => some .checksum
  | .decode => some .decode
  | .buildLogoff => some .buildLogoff
  | .buildLogin => some .buildLogin
  | .buildSubAll => some .buildSubAll
  | .buildSubLoco hi lo =>
    if hi ≤ 255 ∧ lo ≤ 255 then some (.buildSubLoco (BitVec.ofNat 8 hi) (BitVec.ofNat 8 lo)) else none

/-- The mnemonic of an instruction in spec/opcode_table.json. -/
def mnemonic : Instr → String
  | .nop => "NOP"
  | .parse => "PARSE"
  | .serialize => "SERIALIZE"
  | .checksum => "CHECKSUM"
  | .decode => "DECODE"
  | .buildLogoff => "BUILD_LOGOFF"
  | .buildLogin => "BUILD_LOGIN"
  | .buildSubAll => "BUILD_SUB_ALL"
  | .buildSubLoco _ _ => "BUILD_SUB_LOCO"
  | .logoff _ => "LOGOFF"
  | .login _ => "LOGIN"
  | .subscribeAll => "SUBSCRIBE_ALL"
  | .subscribeOne => "SUBSCRIBE_ONE"
  | .locoStatus => "LOCO_STATUS"

/-- The `match` and `mask` of an instruction's row in spec/opcode_table.json. -/
def tableRow : Instr → Word × Word
  | .nop => (0x00000000#32, 0xFFFFFFFF#32)
  | .parse => (0x00000001#32, 0xFFFFFFFF#32)
  | .serialize => (0x00000002#32, 0xFFFFFFFF#32)
  | .checksum => (0x00000003#32, 0xFFFFFFFF#32)
  | .decode => (0x00000004#32, 0xFFFFFFFF#32)
  | .buildLogoff => (0x00000010#32, 0xFFFFFFFF#32)
  | .buildLogin => (0x00000011#32, 0xFFFFFFFF#32)
  | .buildSubAll => (0x00000012#32, 0xFFFFFFFF#32)
  | .buildSubLoco _ _ => (0x00000013#32, 0xFF0000FF#32)
  | .logoff _ => (0x00000030#32, 0x0100FFFF#32)
  | .login _ => (0x00000110#32, 0x0100FFFF#32)
  | .subscribeAll => (0x01000050#32, 0x01FFFFFF#32)
  | .subscribeOne => (0x01E30040#32, 0x01FFFFFF#32)
  | .locoStatus => (0x01EF0040#32, 0x01FFFFFF#32)

/-- The low `nbits` bits of a table word, as a 32-bit word (every bit above `nbits` is 0). -/
def tableWord (nbits w : Nat) : Word := BitVec.ofNat 32 (w % 2 ^ nbits)

/-- The instruction the decoder reads from a word numbered as spec/opcode_table.json numbers it. The word is laid out
as the host's 4-byte write stores it (R55) and given to `decodeBytes`. -/
def decodeTableWord (nbits w : Nat) : Option Instr :=
  match decodeBytes (bytesOfWord (tableWord nbits w)) with
  | .ok (i, _) => some i
  | .error _ => none

end Sys2Proof
end

