-- ==== Sys2Proof/Config.lean ====
section
/-! DEFINITION. The parameters of R7 (a value of type `Params` stands in the machine's state and no step changes it),
the open base address, and the free values of R12's `draw`. -/

namespace Sys2Proof

/-- `ADDRESS_FORMULA` (R7): how DECODE assembles the address. -/
inductive AddressFormula where
  | maskedShift    -- `MASKED_SHIFT`, R151
  | sourceLiteral  -- `SOURCE_LITERAL`, R152
deriving DecidableEq, Repr

/-- `UNKNOWN_MODE_SPEED` (R7): the speed DECODE reports when the selector is not 1, 2 or 4. -/
inductive UnknownModeSpeed where
  | zero  -- `ZERO`: speed 0
  | draw  -- `DRAW`: any 7-bit value
deriving DecidableEq, Repr

/-- The parameters of R7 that PARAM0 and PARAM1 report (R33). `FRAME_MAX` is derived (`Params.frameMax`). -/
structure Params where
  /-- `PAY_MAX`: the largest payload, in bytes. -/
  payMax : Nat
  /-- `FN_EXT_MAX`: the largest number of function-extension bytes DECODE reads. -/
  fnExtMax : Nat
  /-- `ADDRESS_FORMULA`. -/
  addressFormula : AddressFormula
  /-- `UNKNOWN_MODE_SPEED`. -/
  unknownModeSpeed : UnknownModeSpeed
deriving DecidableEq, Repr

/-- `FRAME_MAX = PAY_MAX + 6` (R7): the size of the receive and transmit buffers. -/
def Params.frameMax (p : Params) : Nat := p.payMax + 6

/-- The largest legal `FN_EXT_MAX` for a `PAY_MAX`: `max(0, min(PAY_MAX - 5, 1023))` (R7).
Nat subtraction stops at 0, which is the `max(0, ..)`. -/
def fnExtLimit (payMax : Nat) : Nat := min (payMax - 5) 1023

/-- The defaults of R7: 250, 245, `MASKED_SHIFT`, `ZERO`. -/
def Params.default : Params where
  payMax := 250
  fnExtMax := 245
  addressFormula := .maskedShift
  unknownModeSpeed := .zero

/-- The open multiple of 0x4000 at which the platform puts the window: `BASE` is "any platform address aligned to
0x4000", OPEN (R7). A constant with no body: no statement can rest on its value. -/
opaque Config.baseIndex : Nat

/-- `BASE` (R7, R25). -/
def Config.base : Nat := 0x4000 * Config.baseIndex

/-- The host address of a window offset (R25: "Offsets below are from `BASE`"). -/
def Config.hostAddress (o : Nat) : Nat := Config.base + o

/-- `draw(w)` (R12): "A value of `w` bits the model leaves free. Every claim must hold for every draw."
The second argument is the number of the draw (`State.draws`), so that two draws may differ. A constant with no body. -/
opaque Config.draw (w n : Nat) : BitVec w

end Sys2Proof
end

