-- ==== Sys2Proof/WellFormed.lean ====
section
/-! DEFINITION. The checks on terms a reader may write: the operands of an assembler line (R90) and the legal values of
the parameters (R7). Every term of `Instr` is well formed, since its operands are bytes by type (R82: "raw bytes"). -/

namespace Sys2Proof

/-- R90: "`hi, lo in 0..255`"; "An operand out of 0..255 is an assembly error, not a truncation." -/
def AsmLine.wellFormed : AsmLine → Bool
  | .buildSubLoco hi lo => decide (hi ≤ 255) && decide (lo ≤ 255)
  | .nop => true
  | .parse => true
  | .serialize => true
  | .checksum => true
  | .decode => true
  | .buildLogoff => true
  | .buildLogin => true
  | .buildSubAll => true

/-- R7's "legal values": `PAY_MAX` in 4 to 4090, `FN_EXT_MAX` in 0 to `max(0, min(PAY_MAX - 5, 1023))`. -/
def Params.legal (p : Params) : Bool :=
  decide (4 ≤ p.payMax) && decide (p.payMax ≤ 4090) && decide (p.fnExtMax ≤ fnExtLimit p.payMax)

end Sys2Proof
end

