-- ==== Sys2Proof/Machine/State.lean ====
section
/-! DEFINITION. The state of the block (R20), the reasons a step can stop, and the state after reset (R210). -/

namespace Sys2Proof.Machine

/-- The kinds of host fault (R193). Each is raised by the operation `hostFault`, which writes the state's `FAULT`. -/
inductive HostFault where
  | badWidth       -- `BAD_WIDTH`: 1-byte access to a register (R56)
  | misaligned     -- `MISALIGNED`: 4-byte access at an offset not a multiple of 4 (R56)
  | unmapped       -- `UNMAPPED`: access to an unmapped offset (R62)
  | writeRo        -- `WRITE_RO`: write to a read-only register or to `TX` (R61)
  | busyAccess     -- `BUSY_ACCESS`: an access R220 does not allow while `BUSY` = 1
  | unwrittenRead  -- `UNWRITTEN_READ`: a read of a buffer byte with no value (R46)
deriving DecidableEq, Repr

/-- Why a step answers no next state. -/
inductive Fault where
  /-- Raised by `step` when the state's `FAULT` is set and the next move is not a reset: "no agent steps again" (R193).
  Safe: the model stops where a real block does something the spec does not fix (R194). -/
  | hostFault (kind : HostFault)
deriving DecidableEq, Repr

/-- Why an instruction has no meaning. -/
inductive Refusal where
  /-- Raised by nothing: every arm of `exec` has its meaning. It is here because the host's interface names it. Safe. -/
  | notModelled (mnemonic : String)
deriving DecidableEq, Repr

/-- The result codes of R182. Codes 0x09 to 0xFF "are never written", so they have no constructor. -/
inductive ErrCode where
  | ok
  | malformedFrame
  | unexpectedFrameType
  | unknownSpeedStepMode
  | invalidFrame
  | shortStatusPayload
  | frameTooLong
  | noChecksum
  | badCommand
deriving DecidableEq, Repr

/-- LS's `speed_step_mode` enumeration, as `S_MODE.MODE` holds it (R40). -/
inductive StepMode where
  | unknown
  | fourteenStep
  | twentyEightStep
  | hundredTwentySixStep
deriving DecidableEq, Repr

/-- LS's `direction` enumeration, as `S_DIR.DIR` holds it (R42). -/
inductive Direction where
  | backward
  | forward
deriving DecidableEq, Repr

/-- The fields of `STATUS` but `BUSY`, which is `PENDING != none` (R27, R44). -/
structure Flags where
  err : ErrCode
  cksumOk : Bool
  sValid : Bool
  fnTrunc : Bool
deriving DecidableEq, Repr

/-- The frame registers (R22): `F_LEN`, `F_HDR`, `F_XH`, `F_PLEN`, `F_CK`. The payload bytes are in memory, at `PAY`. -/
structure Frame where
  len : Half
  hdr0 : Byte
  hdr1 : Byte
  xh : Byte
  xhValid : Bool
  plen : Half
  ck : Byte
  ckValid : Bool
deriving DecidableEq, Repr

/-- The status registers (R24): `S_ADDR`, `S_MODE`, `S_SPEED`, `S_DIR`, `S_FNCNT`, and the bitmap `FN` (R32). -/
structure StatusRecord where
  addr : BitVec 14
  mode : StepMode
  sel : BitVec 3
  speed : BitVec 7
  dir : Direction
  fnCnt : Half
  fn : BitVec 8192
deriving DecidableEq, Repr

/-- The buffer bytes that hold a value, by window offset (R25: `RX` at 0x1000, `TX` at 0x2000, `PAY` at 0x3000). An
offset not listed holds no value (R46). The canonical form is `Memory.wf`. -/
abbrev Memory := List Host.Cell

/-- The canonical form: offsets strictly rising. (An unlisted offset holds no value, so no entry equals it.) -/
def Memory.wf : Memory → Bool
  | [] => true
  | [_] => true
  | (a, _) :: (b, y) :: m => decide (a < b) && Memory.wf ((b, y) :: m)

/-- One host access, at a window offset (R58, R59, R91). -/
inductive Access where
  | read8 (o : Nat)             -- `ld8`, `MemRead(o, 1)`
  | read32 (o : Nat)            -- `ld32`, `MemRead(o, 4)`
  | write8 (o : Nat) (v : Byte)   -- `st8`, `MemWrite(o, 1, v)`
  | write32 (o : Nat) (v : Word)  -- `st32`, `MemWrite(o, 4, v)`
deriving DecidableEq, Repr

/-- What happens next, from outside the block: a host access, a turn of the engine (R180: the scheduler may put any
number of host steps before it), or the external reset input (R211). -/
inductive Move where
  | host (a : Access)
  | engine
  | reset
deriving DecidableEq, Repr

/-- The block's state (R20), and three fields of the model's own: `moves`, `readData`, `draws`. -/
structure State where
  /-- `CMD`: the last word written (R26). -/
  cmd : Word
  /-- `PENDING` (R44); `STATUS.BUSY` = 1 exactly when it is not `none`. -/
  pending : Option Word
  /-- `STATUS` bits 10:0 (R27). -/
  flags : Flags
  /-- The frame registers (R22). -/
  frame : Frame
  /-- `RX_LEN.LEN` (R28). -/
  rxLen : Half
  /-- `TX_LEN.LEN` (R29). -/
  txLen : Half
  /-- `CK_CALC.CK` (R38). -/
  ckCalc : Byte
  /-- The status registers and `FN` (R24, R32). -/
  status : StatusRecord
  /-- The buffers `RX`, `TX` and `PAY` (R28 to R30). -/
  mem : Memory
  /-- What `PARAM0` and `PARAM1` report (R33). No step changes it. -/
  params : Params
  /-- `FAULT`, the model's record of a host access that has no meaning (R45). -/
  fault : Option HostFault
  /-- The model's own: the coming moves, oldest first. When it is empty the engine has the turn. -/
  moves : List Move
  /-- The model's own: what the last host read returned (R58); `none` before the first. -/
  readData : Option Word
  /-- The model's own: how many draws have been taken (R12). -/
  draws : Nat
deriving DecidableEq, Repr

/-- The state right after reset (R210), at the default parameters of R7, with no fault (R45: "`none` at the start of a
run") and nothing to come from outside. -/
def State.reset : State where
  cmd := 0#32
  pending := none
  flags := { err := .ok, cksumOk := false, sValid := false, fnTrunc := false }
  frame := { len := 0#16, hdr0 := 0#8, hdr1 := 0#8, xh := 0#8, xhValid := false, plen := 0#16, ck := 0#8, ckValid := false }
  rxLen := 0#16
  txLen := 0#16
  ckCalc := 0#8
  status := { addr := 0#14, mode := .unknown, sel := 0#3, speed := 0#7, dir := .backward, fnCnt := 0#16, fn := 0#8192 }
  mem := []
  params := Params.default
  fault := none
  moves := []
  readData := none
  draws := 0

end Sys2Proof.Machine
end

