-- ==== Sys2Proof/Machine/Ops.lean ====
section
/-! DEFINITION. The named operations over memory and registers that every meaning and every host access goes through. -/

namespace Sys2Proof.Machine

/-! ### Memory (R28 to R30, R46) -/

/-- The byte at an offset; `none` when it holds no value (R46). -/
def Memory.read : Memory → Nat → Option Byte
  | [], _ => none
  | (a, v) :: m, o => if a = o then some v else Memory.read m o

/-- Write a byte, keeping the offsets strictly rising. -/
def Memory.write : Memory → Nat → Byte → Memory
  | [], o, v => [(o, v)]
  | (a, x) :: m, o, v =>
    if o < a then (o, v) :: (a, x) :: m
    else if o = a then (o, v) :: m
    else (a, x) :: Memory.write m o v

/-- The `n` bytes from `o` on; `none` when one of them holds no value. -/
def Memory.readBytes (m : Memory) (o : Nat) : Nat → Option (List Byte)
  | 0 => some []
  | n + 1 =>
    match Memory.read m o, Memory.readBytes m (o + 1) n with
    | some b, some bs => some (b :: bs)
    | _, _ => none

/-- Write bytes from `o` on, in order. -/
def Memory.writeBytes (m : Memory) (o : Nat) : List Byte → Memory
  | [] => m
  | b :: bs => Memory.writeBytes (Memory.write m o b) (o + 1) bs

/-- Window offset of `RX[0]` (R25). -/
def rxBase : Nat := 0x1000

/-- Window offset of `TX[0]` (R25). -/
def txBase : Nat := 0x2000

/-- Window offset of `PAY[0]` (R25). -/
def payBase : Nat := 0x3000

/-- The mapped buffer offsets (R63): `RX` and `TX` below `FRAME_MAX`, `PAY` below `PAY_MAX`. -/
def bufferMapped (p : Params) (o : Nat) : Bool :=
  (decide (rxBase ≤ o) && decide (o < rxBase + p.frameMax)) ||
  (decide (txBase ≤ o) && decide (o < txBase + p.frameMax)) ||
  (decide (payBase ≤ o) && decide (o < payBase + p.payMax))

/-- The offsets of the `TX` region, which the host may not write (R61). -/
def inTx (o : Nat) : Bool := decide (txBase ≤ o) && decide (o < payBase)

/-! ### Byte sequences (R11, R12) -/

/-- `le16(lo, hi)`: a 16-bit value from two bytes, low byte first (R12, R52). -/
def le16 (lo hi : Byte) : Half := lo.setWidth 16 ||| (hi.setWidth 16 <<< 8)

/-- `fold(x, s)`: the XOR fold (R102). -/
def fold (x : Byte) : List Byte → Byte
  | [] => x
  | b :: bs => fold (x ^^^ b) bs

/-- `s[i]` for an index the caller knows to be in range (R11). -/
def byteAt (s : List Byte) (i : Nat) : Byte := s.getD i 0#8

/-- `s[i:j]`, empty when `j <= i` (R11). -/
def slice (s : List Byte) (i j : Nat) : List Byte := (s.drop i).take (j - i)

/-! ### Ends of a command (R12, R181) and host faults (R193) -/

/-- `STATUS.ERR <- code`. -/
def State.setErr (s : State) (c : ErrCode) : State := { s with flags := { s.flags with err := c } }

/-- `finish(code)`: "End the command after its writes. `STATUS.ERR <- code`." (R12) -/
def finish (c : ErrCode) (s : State) : Host.Outcome State Fault Refusal := .next (s.setErr c)

/-- `raise ERR(code)`: "It writes its code to `STATUS.ERR` and changes no other state." (R181) The block has no other
form of exception: no trap, no saved state, no vector (R191), and so no return (R192). -/
def raiseErr (c : ErrCode) (s : State) : Host.Outcome State Fault Refusal := .next (s.setErr c)

/-- `FAULT <- some(kind)`, nothing else (R61, R193). -/
def State.setFault (s : State) (k : HostFault) : State := { s with fault := some k }

/-- `host_fault(reason)` inside a command: a read of a byte with no value (R46, R193). -/
def hostFault (k : HostFault) (s : State) : Host.Outcome State Fault Refusal := .next (s.setFault k)

/-! ### Updates of the state's parts -/

/-- Replace the buffers' bytes. -/
def State.setMem (s : State) (m : Memory) : State := { s with mem := m }

/-- Replace the frame registers. -/
def State.setFrame (s : State) (f : Frame) : State := { s with frame := f }

/-- `CK_CALC.CK <- c` (R38). -/
def State.setCkCalc (s : State) (c : Byte) : State := { s with ckCalc := c }

/-- `STATUS.CKSUM_OK <- b` (R27). -/
def State.setCksumOk (s : State) (b : Bool) : State := { s with flags := { s.flags with cksumOk := b } }

/-- `RX_LEN.LEN <- n` (R28). -/
def State.setRxLen (s : State) (n : Half) : State := { s with rxLen := n }

/-- `TX_LEN.LEN <- n` (R29). -/
def State.setTxLen (s : State) (n : Half) : State := { s with txLen := n }

/-- Replace the status registers, with `STATUS.FN_TRUNC <- trunc` and `STATUS.S_VALID <- 1` (R145). -/
def State.setStatus (s : State) (r : StatusRecord) (trunc : Bool) : State :=
  { s with status := r, flags := { s.flags with fnTrunc := trunc, sValid := true } }

/-- One more draw has been taken (R12). -/
def State.countDraw (s : State) : State := { s with draws := s.draws + 1 }

/-- `CMD <- w; PENDING <- w` (R26, R44). -/
def State.setCommand (s : State) (w : Word) : State := { s with cmd := w, pending := some w }

/-- `PENDING <- none` (R180). -/
def State.clearPending (s : State) : State := { s with pending := none }

/-- What a host read returned. -/
def State.setReadData (s : State) (v : Word) : State := { s with readData := some v }

/-- Replace the coming moves. -/
def State.setMoves (s : State) (ms : List Move) : State := { s with moves := ms }

/-- The external reset (R210, R211): every register at its reset value, no buffer byte with a value, no pending command.
`PARAM0` and `PARAM1` are unchanged and `FAULT` is not cleared (R45). The model's own three fields go on. -/
def State.resetBlock (s : State) : State :=
  { State.reset with
    params := s.params, fault := s.fault, moves := s.moves, readData := s.readData, draws := s.draws }

end Sys2Proof.Machine
end

