-- ==== Sys2Proof/Machine/Flags.lean ====
section
/-! DEFINITION. The flags and codes: the bits of each result code and enumeration (R40, R42, R182), the checksum flag
(R106, R117), the truncation flag (R161), and the word `STATUS` reads (R27, R186). -/

namespace Sys2Proof.Machine

/-- `STATUS.ERR`'s code (R182). -/
def errByte : ErrCode → Byte
  | .ok => 0x00#8
  | .malformedFrame => 0x01#8
  | .unexpectedFrameType => 0x02#8
  | .unknownSpeedStepMode => 0x03#8
  | .invalidFrame => 0x04#8
  | .shortStatusPayload => 0x05#8
  | .frameTooLong => 0x06#8
  | .noChecksum => 0x07#8
  | .badCommand => 0x08#8

/-- `S_MODE.MODE`'s code (R40). -/
def modeBits : StepMode → BitVec 2
  | .unknown => 0#2
  | .fourteenStep => 1#2
  | .twentyEightStep => 2#2
  | .hundredTwentySixStep => 3#2

/-- `S_DIR.DIR`: 1 = Forward, 0 = Backward (R42). -/
def dirBit : Direction → Bool
  | .forward => true
  | .backward => false

/-- The direction of the wire bit (R153). -/
def directionOf (b : Bool) : Direction := if b then .forward else .backward

/-- PARSE's `CKSUM_OK`: the received checksum equals the fold (R106). -/
def parsedCksumOk (received calculated : Byte) : Bool := decide (received = calculated)

/-- CHECKSUM's `CKSUM_OK`: a checksum is supplied and equals the fold (R117). -/
def suppliedCksumOk (f : Frame) (calculated : Byte) : Bool := f.ckValid && decide (f.ck = calculated)

/-- `FN_TRUNC` for a payload of `k` bytes: the payload holds more function bytes than `FN_EXT_MAX` (R158, R161). -/
def truncated (p : Params) (k : Nat) : Bool := decide (5 ≤ k) && decide (p.fnExtMax < k - 5)

/-- `STATUS.BUSY` (R44). -/
def busy (s : State) : Bool := s.pending.isSome

/-- A bit at position `i` of a register word. -/
def bitAt (b : Bool) (i : Nat) : Word := (BitVec.ofBool b).setWidth 32 <<< i

/-- `STATUS` while `BUSY` = 0 (R27). -/
def idleStatusWord (f : Flags) : Word :=
  (errByte f.err).setWidth 32 ||| bitAt f.cksumOk 8 ||| bitAt f.sValid 9 ||| bitAt f.fnTrunc 10

/-- `STATUS` while `BUSY` = 1: bit 31 is 1 and bits 30:0 are draw number `n` (R186). -/
def busyStatusWord (n : Nat) : Word := (Config.draw 31 n).setWidth 32 ||| bitAt true 31

end Sys2Proof.Machine
end

