-- ==== Sys2Proof/Machine/Operands.lean ====
section
/-! DEFINITION. The operand forms of the commands: the received datagram, the frame's payload, the frame's validity and
its wire class (R22, R23, R89), each read from the state in one place. -/

namespace Sys2Proof.Machine

/-- PARSE's operand `RX[0:n]` with `n = RX_LEN.LEN` (R103); `none` when a byte holds no value. -/
def rxDatagram (s : State) : Option (List Byte) := Memory.readBytes s.mem rxBase s.rxLen.toNat

/-- `PAY[0 : n]`; `none` when a byte holds no value (R46). -/
def payloadBytes (s : State) (n : Nat) : Option (List Byte) := Memory.readBytes s.mem payBase n

/-- The whole payload `PAY[0 : F_PLEN.PLEN]` (R30). -/
def payload (s : State) : Option (List Byte) := payloadBytes s s.frame.plen.toNat

/-- How many payload bytes DECODE reads: `min(F_PLEN.PLEN, 5 + FN_EXT_MAX)` (R145). -/
def decodeLength (s : State) : Nat := min s.frame.plen.toNat (5 + s.params.fnExtMax)

/-- The frame checks that SERIALIZE, CHECKSUM and DECODE make first, in this order (R23, R110, R116, R146). -/
def frameError (s : State) : Option ErrCode :=
  if s.params.payMax < s.frame.plen.toNat then some .frameTooLong
  else if 0 < s.frame.plen.toNat ∧ s.frame.xhValid = false then some .invalidFrame
  else none

/-- Run `body` on a frame that passes the checks; else raise the check's error. -/
def withValidFrame (s : State) (body : State → Host.Outcome State Fault Refusal) : Host.Outcome State Fault Refusal :=
  match frameError s with
  | some e => raiseErr e s
  | none => body s

/-- R89's key of the frame registers. -/
def frameKey (f : Frame) : BitVec 25 := wireKey f.hdr0 f.hdr1 f.xh f.xhValid

/-- The wire class of the frame registers, if any (R88). -/
def frameClass (f : Frame) : Option Instr := decodeWire (frameKey f)

/-- R147's test: header `[0x40, 0x00]` and extended header present and 0xEF. -/
def isStatusFrame (f : Frame) : Bool :=
  decide (f.hdr0 = 0x40#8) && decide (f.hdr1 = 0x00#8) && f.xhValid && decide (f.xh = 0xEF#8)

end Sys2Proof.Machine
end

