-- ==== Sys2Proof/Machine/Bus.lean ====
section
/-! DEFINITION. The host's accesses to the register window: the map (R25, R63), the checks (R56, R61, R62, R220), and
`MemRead` and `MemWrite` (R58, R59). -/

namespace Sys2Proof.Machine

/-- The registers of R25's map. -/
inductive Reg where
  | cmd | status | rxLen | txLen | fLen | fHdr | fXh | fPlen | fCk | ckCalc
  | sAddr | sMode | sSpeed | sDir | sFnCnt | param0 | param1
  | fnW (j : Nat)
deriving DecidableEq, Repr

/-- The register at a window offset (R25); `none` where none is mapped (R62). -/
def regAt (o : Nat) : Option Reg :=
  if o = 0x000 then some .cmd
  else if o = 0x004 then some .status
  else if o = 0x008 then some .rxLen
  else if o = 0x00C then some .txLen
  else if o = 0x010 then some .fLen
  else if o = 0x014 then some .fHdr
  else if o = 0x018 then some .fXh
  else if o = 0x01C then some .fPlen
  else if o = 0x020 then some .fCk
  else if o = 0x024 then some .ckCalc
  else if o = 0x030 then some .sAddr
  else if o = 0x034 then some .sMode
  else if o = 0x038 then some .sSpeed
  else if o = 0x03C then some .sDir
  else if o = 0x040 then some .sFnCnt
  else if o = 0x080 then some .param0
  else if o = 0x084 then some .param1
  else if 0x400 ≤ o ∧ o < 0x800 ∧ o % 4 = 0 then some (.fnW ((o - 0x400) / 4))
  else none

/-- What an access reaches: a register, or one or four mapped buffer bytes. -/
inductive Target where
  | reg (r : Reg)
  | buffer
deriving DecidableEq, Repr

/-- The checks of width, alignment (R56) and mapping (R62) for a 1-byte access. -/
def target8 (p : Params) (o : Nat) : Except HostFault Target :=
  if o < 0x1000 then .error .badWidth
  else if bufferMapped p o then .ok .buffer
  else .error .unmapped

/-- The checks of width, alignment (R56) and mapping (R62) for a 4-byte access. -/
def target32 (p : Params) (o : Nat) : Except HostFault Target :=
  if o % 4 ≠ 0 then .error .misaligned
  else if o < 0x1000 then
    match regAt o with
    | some r => .ok (.reg r)
    | none => .error .unmapped
  else if bufferMapped p o ∧ bufferMapped p (o + 1) ∧ bufferMapped p (o + 2) ∧ bufferMapped p (o + 3) then .ok .buffer
  else .error .unmapped

/-- The registers the host may read while `BUSY` = 1 (R58, R220). -/
def readableWhileBusy : Target → Bool
  | .reg .status => true
  | .reg .param0 => true
  | .reg .param1 => true
  | _ => false

/-- A register's 32-bit value while `BUSY` = 0, or a parameter register's at any time (R25). Fields marked zero read 0. -/
def regWord (s : State) : Reg → Word
  | .cmd => s.cmd
  | .status => idleStatusWord s.flags
  | .rxLen => s.rxLen.setWidth 32
  | .txLen => s.txLen.setWidth 32
  | .fLen => s.frame.len.setWidth 32
  | .fHdr => s.frame.hdr0.setWidth 32 ||| (s.frame.hdr1.setWidth 32 <<< 8)
  | .fXh => s.frame.xh.setWidth 32 ||| bitAt s.frame.xhValid 8
  | .fPlen => s.frame.plen.setWidth 32
  | .fCk => s.frame.ck.setWidth 32 ||| bitAt s.frame.ckValid 8
  | .ckCalc => s.ckCalc.setWidth 32
  | .sAddr => s.status.addr.setWidth 32
  | .sMode => (modeBits s.status.mode).setWidth 32 ||| (s.status.sel.setWidth 32 <<< 8)
  | .sSpeed => s.status.speed.setWidth 32
  | .sDir => bitAt (dirBit s.status.dir) 0
  | .sFnCnt => s.status.fnCnt.setWidth 32
  | .param0 => BitVec.ofNat 32 (s.params.payMax % 65536) ||| (BitVec.ofNat 32 (s.params.frameMax % 65536) <<< 16)
  | .param1 =>
    BitVec.ofNat 32 (s.params.fnExtMax % 65536)
      ||| bitAt (decide (s.params.addressFormula = .sourceLiteral)) 16
      ||| bitAt (decide (s.params.unknownModeSpeed = .draw)) 17
  | .fnW j => s.status.fn.extractLsb' (32 * j) 32

/-- A read of a register (R58). `STATUS` while `BUSY` = 1 reads as R186 says, and takes a draw. -/
def readReg (r : Reg) (s : State) : State :=
  if r = .status ∧ busy s then s.countDraw.setReadData (busyStatusWord s.draws)
  else s.setReadData (regWord s r)

/-- A store to an RW register (R25, R59): "store v's defined fields; fields marked zero are ignored". `none`
for a read-only register (R61). A write to `CMD` starts a command (R26). -/
def writeReg (r : Reg) (v : Word) (s : State) : Option State :=
  match r with
  | .cmd => some (s.setCommand v)
  | .rxLen => some (s.setRxLen (v.extractLsb' 0 16))
  | .fLen => some (s.setFrame { s.frame with len := v.extractLsb' 0 16 })
  | .fHdr => some (s.setFrame { s.frame with hdr0 := v.extractLsb' 0 8, hdr1 := v.extractLsb' 8 8 })
  | .fXh => some (s.setFrame { s.frame with xh := v.extractLsb' 0 8, xhValid := v.getLsbD 8 })
  | .fPlen => some (s.setFrame { s.frame with plen := v.extractLsb' 0 16 })
  | .fCk => some (s.setFrame { s.frame with ck := v.extractLsb' 0 8, ckValid := v.getLsbD 8 })
  | .status => none
  | .txLen => none
  | .ckCalc => none
  | .sAddr => none
  | .sMode => none
  | .sSpeed => none
  | .sDir => none
  | .sFnCnt => none
  | .param0 => none
  | .param1 => none
  | .fnW _ => none

/-- `MemRead(o, 1)` (R58). The byte is returned in bits 7:0. -/
def memRead8 (o : Nat) (s : State) : State :=
  match target8 s.params o with
  | .error k => s.setFault k
  | .ok t =>
    if busy s ∧ readableWhileBusy t = false then s.setFault .busyAccess
    else
      match Memory.read s.mem o with
      | none => s.setFault .unwrittenRead
      | some b => s.setReadData (b.setWidth 32)

/-- `MemRead(o, 4)` (R57, R58). -/
def memRead32 (o : Nat) (s : State) : State :=
  match target32 s.params o with
  | .error k => s.setFault k
  | .ok t =>
    if busy s ∧ readableWhileBusy t = false then s.setFault .busyAccess
    else
      match t with
      | .reg r => readReg r s
      | .buffer =>
        match Memory.readBytes s.mem o 4 with
        | some [b0, b1, b2, b3] => s.setReadData (wordOfBytes b0 b1 b2 b3)
        | _ => s.setFault .unwrittenRead

/-- Store bytes into a buffer, or `WRITE_RO` when it is `TX` (R59, R61). -/
def writeBuffer (o : Nat) (bs : List Byte) (s : State) : State :=
  if inTx o then s.setFault .writeRo else s.setMem (Memory.writeBytes s.mem o bs)

/-- `MemWrite(o, 1, v)` (R59). -/
def memWrite8 (o : Nat) (v : Byte) (s : State) : State :=
  match target8 s.params o with
  | .error k => s.setFault k
  | .ok _ => if busy s then s.setFault .busyAccess else writeBuffer o [v] s

/-- `MemWrite(o, 4, v)` (R57, R59). -/
def memWrite32 (o : Nat) (v : Word) (s : State) : State :=
  match target32 s.params o with
  | .error k => s.setFault k
  | .ok t =>
    if busy s then s.setFault .busyAccess
    else
      match t with
      | .reg r =>
        match writeReg r v s with
        | some s' => s'
        | none => s.setFault .writeRo
      | .buffer => writeBuffer o (bytesOfWord v) s

/-- One host access (R180: "each step is one `MemRead` or `MemWrite`"). -/
def access (a : Access) (s : State) : State :=
  match a with
  | .read8 o => memRead8 o s
  | .read32 o => memRead32 o s
  | .write8 o v => memWrite8 o v s
  | .write32 o v => memWrite32 o v s

end Sys2Proof.Machine
end

