-- ==== Sys2Proof/Machine/Builders.lean ====
section
/-! DEFINITION. The frame builders BUILD_LOGOFF, BUILD_LOGIN, BUILD_SUB_ALL and BUILD_SUB_LOCO
(spec/41_frame_builders.md). -/

namespace Sys2Proof.Machine

/-- A built frame of header `[h0, h1]`, extended header `xh` if any and a payload of `k` bytes, with the common writes
of R131: no supplied checksum, and the length the frame serializes to, `(XH_VALID = 1) ? 6 + PLEN : 4`. -/
def builtFrame (h0 h1 : Byte) (xh : Option Byte) (k : Nat) : Frame where
  len := if xh.isSome then BitVec.ofNat 16 (6 + k) else 4#16
  hdr0 := h0
  hdr1 := h1
  xh := xh.getD 0#8
  xhValid := xh.isSome
  plen := BitVec.ofNat 16 k
  ck := 0#8
  ckValid := false

/-- Load a built frame with payload `p` into the frame registers and `PAY`; `finish(OK)` (R130, R131). -/
def build (h0 h1 : Byte) (xh : Option Byte) (p : List Byte) (s : State) : Host.Outcome State Fault Refusal :=
  finish .ok ((s.setFrame (builtFrame h0 h1 xh p.length)).setMem (Memory.writeBytes s.mem payBase p))

/-- BUILD_LOGOFF (R132). -/
def execBuildLogoff (s : State) : Host.Outcome State Fault Refusal := build 0x30#8 0x00#8 none [] s

/-- BUILD_LOGIN (R134, R135). -/
def execBuildLogin (s : State) : Host.Outcome State Fault Refusal := build 0x10#8 0x01#8 none [] s

/-- BUILD_SUB_ALL (R136). -/
def execBuildSubAll (s : State) : Host.Outcome State Fault Refusal :=
  build 0x50#8 0x00#8 (some 0x00#8) [0x01#8, 0x00#8, 0x01#8] s

/-- BUILD_SUB_LOCO hi, lo (R138, R139). -/
def execBuildSubLoco (hi lo : Byte) (s : State) : Host.Outcome State Fault Refusal :=
  build 0x40#8 0x00#8 (some 0xE3#8) [0xF0#8, hi, lo] s

end Sys2Proof.Machine
end

