-- ==== Sys2Proof/Machine/Codec.lean ====
section
/-! DEFINITION. The codec commands NOP, PARSE, SERIALIZE and CHECKSUM (spec/40_codec.md). -/

namespace Sys2Proof.Machine

/-- NOP (R100): `finish(OK)`. -/
def execNop (s : State) : Host.Outcome State Fault Refusal := finish .ok s

/-- The frame registers PARSE leaves from a datagram `d` (R103, R105, R107). -/
def parsedFrame (d : List Byte) : Frame where
  len := le16 (byteAt d 0) (byteAt d 1)
  hdr0 := byteAt d 2
  hdr1 := byteAt d 3
  xh := byteAt d 4
  xhValid := true
  plen := BitVec.ofNat 16 (d.length - 6)
  ck := byteAt d (d.length - 1)
  ckValid := true

/-- The payload of a datagram: `d[5 : 5 + k]` with `k = max(0, n - 6)` (R103). -/
def parsedPayload (d : List Byte) : List Byte := slice d 5 (5 + (d.length - 6))

/-- PARSE's fold over a datagram (R103). -/
def parsedFold (d : List Byte) : Byte := fold (byteAt d 4) (parsedPayload d)

/-- PARSE's writes from a datagram `d`, but for the result code (R103). -/
def parseWrites (d : List Byte) (s : State) : State :=
  let c := parsedFold d
  (((s.setFrame (parsedFrame d)).setMem (Memory.writeBytes s.mem payBase (parsedPayload d))).setCkCalc c).setCksumOk
    (parsedCksumOk (byteAt d (d.length - 1)) c)

/-- PARSE (R103): both length checks come before any byte of `RX` is read (R104). -/
def execParse (s : State) : Host.Outcome State Fault Refusal :=
  if s.rxLen.toNat < 5 then raiseErr .malformedFrame s
  else if s.params.frameMax < s.rxLen.toNat then raiseErr .frameTooLong s
  else
    match rxDatagram s with
    | none => hostFault .unwrittenRead s
    | some d => finish .ok (parseWrites d s)

/-- The length and the body as SERIALIZE emits them: `L = 2 + |body|`, its low byte first (R111). -/
def datagram (body : List Byte) : List Byte :=
  let len := BitVec.ofNat 16 (2 + body.length)
  len.extractLsb' 0 8 :: len.extractLsb' 8 8 :: body

/-- The checksum SERIALIZE emits: "the caller-supplied value or the computed exclusive-or fold" (R111). -/
def emittedCk (f : Frame) (calculated : Byte) : Byte := if f.ckValid then f.ck else calculated

/-- SERIALIZE's writes of `TX`, `TX_LEN` and `F_LEN` for a body (R111). -/
def emit (body : List Byte) (s : State) : State :=
  let len := BitVec.ofNat 16 (2 + body.length)
  ((s.setMem (Memory.writeBytes s.mem txBase (datagram body))).setTxLen len).setFrame { s.frame with len := len }

/-- SERIALIZE's body for a frame with an extended header and payload `p` (R111). -/
def extendedBody (f : Frame) (p : List Byte) : List Byte :=
  f.hdr0 :: f.hdr1 :: f.xh :: (p ++ [emittedCk f (fold f.xh p)])

/-- SERIALIZE (R109 to R111). -/
def execSerialize (s : State) : Host.Outcome State Fault Refusal :=
  withValidFrame s fun s =>
    if s.frame.xhValid then
      match payload s with
      | none => hostFault .unwrittenRead s
      | some p => finish .ok (emit (extendedBody s.frame p) (s.setCkCalc (fold s.frame.xh p)))
    else finish .ok (emit [s.frame.hdr0, s.frame.hdr1] s)

/-- CHECKSUM (R115 to R117). -/
def execChecksum (s : State) : Host.Outcome State Fault Refusal :=
  withValidFrame s fun s =>
    if s.frame.xhValid then
      match payload s with
      | none => hostFault .unwrittenRead s
      | some p =>
        let c := fold s.frame.xh p
        finish .ok ((s.setCkCalc c).setCksumOk (suppliedCksumOk s.frame c))
    else raiseErr .noChecksum s

end Sys2Proof.Machine
end

