-- ==== Sys2Proof/Machine/StatusDecoder.lean ====
section
/-! DEFINITION. The status decoder: DECODE, and what DECODE does with a frame of each wire class
(spec/42_status_decoder.md). -/

namespace Sys2Proof.Machine

/-- The address under `ADDRESS_FORMULA` (R151, R152). Both masks fit the 14 bits. -/
def address (f : AddressFormula) (p0 p1 : Byte) : BitVec 14 :=
  match f with
  | .maskedShift => ((p0 &&& 0x3F#8).setWidth 14 <<< 8) ||| p1.setWidth 14
  | .sourceLiteral => (p0.setWidth 14 &&& (0x3F#14 <<< 8)) ||| p1.setWidth 14

/-- `max(0, x)` of an exact integer, as the speed field holds it (R10, R155). -/
def speedField (x : Int) : BitVec 7 := BitVec.ofNat 7 (max 0 x).toNat

/-- What `speed_decode` (R155) says of a selector and a magnitude: a mode with its speed, or Unknown. -/
def knownSpeed (sel : BitVec 3) (mag : BitVec 7) : Option (StepMode × BitVec 7) :=
  if sel = 1#3 then some (.fourteenStep, speedField ((mag.toNat : Int) - 1))
  else if sel = 2#3 then some (.twentyEightStep, speedField (2 * (((mag &&& 0x0F#7).toNat : Int) - 1)))
  else if sel = 4#3 then some (.hundredTwentySixStep, speedField ((mag.toNat : Int) - 1))
  else none

/-- `unknown_speed()` (R156): 0 under `ZERO`, draw number `n` of 7 bits under `DRAW`. -/
def unknownSpeed (u : UnknownModeSpeed) (n : Nat) : BitVec 7 :=
  match u with
  | .zero => 0#7
  | .draw => Config.draw 7 n

/-- `FN[i] <- b` on the bitmap (R12, R32). -/
def writeFn (fn : BitVec 8192) (i : Nat) (b : Bool) : BitVec 8192 :=
  if b then fn ||| (1#8192 <<< i) else fn &&& ~~~(1#8192 <<< i)

/-- The legacy function byte's five writes (R158, R159). -/
def writeLegacy (fn : BitVec 8192) (p4 : Byte) : BitVec 8192 :=
  writeFn (writeFn (writeFn (writeFn (writeFn fn
    0 (p4.getLsbD 4)) 4 (p4.getLsbD 3)) 3 (p4.getLsbD 2)) 2 (p4.getLsbD 1)) 1 (p4.getLsbD 0)

/-- One extension byte's eight writes, from index `i` on, bit 0 first (R158, R160). -/
def writeFnByte (fn : BitVec 8192) (i : Nat) (v : Byte) : BitVec 8192 :=
  (List.range 8).foldl (fun f b => writeFn f (i + b) (v.getLsbD b)) fn

/-- The extension bytes from number `j` on: byte `j` goes to `5 + 8j` and the seven after it (R160). -/
def writeExtension (fn : BitVec 8192) (j : Nat) : List Byte → BitVec 8192
  | [] => fn
  | v :: vs => writeExtension (writeFnByte fn (5 + 8 * j) v) (j + 1) vs

/-- How many extension bytes of a payload of `k` bytes are used: `min(k - 5, FN_EXT_MAX)` (R158). -/
def extensionCount (params : Params) (k : Nat) : Nat := min (k - 5) params.fnExtMax

/-- The bitmap `functions(p, k)` leaves, from a cleared one (R158). -/
def functionBits (params : Params) (p : List Byte) (k : Nat) : BitVec 8192 :=
  if k < 5 then 0#8192
  else writeExtension (writeLegacy 0#8192 (byteAt p 4)) 0 (slice p 5 (5 + extensionCount params k))

/-- The count `functions(p, k)` returns: 0, or `5 + 8e` (R158). -/
def functionCount (params : Params) (k : Nat) : Half :=
  if k < 5 then 0#16 else BitVec.ofNat 16 (5 + 8 * extensionCount params k)

/-- The selector, `p[2] & 0b0000_0111` (R153). -/
def selector (p : List Byte) : BitVec 3 := (byteAt p 2).extractLsb' 0 3

/-- The magnitude, `p[3] & 0b0111_1111` (R153). -/
def magnitude (p : List Byte) : BitVec 7 := (byteAt p 3).extractLsb' 0 7

/-- The status record of a payload of `k` bytes of which `p` is read, for a mode and a speed (R145). -/
def statusRecord (params : Params) (p : List Byte) (k : Nat) (mode : StepMode) (speed : BitVec 7) : StatusRecord where
  addr := address params.addressFormula (byteAt p 0) (byteAt p 1)
  mode := mode
  sel := selector p
  speed := speed
  dir := directionOf ((byteAt p 3).getLsbD 7)
  fnCnt := functionCount params k
  fn := functionBits params p k

/-- The draw an Unknown-mode decode takes: one under `DRAW`, none under `ZERO` (R156). -/
def countUnknownDraw (s : State) : State :=
  match s.params.unknownModeSpeed with
  | .zero => s
  | .draw => s.countDraw

/-- DECODE's writes and result from the payload bytes read (R145, R155, R156). -/
def decodeWrites (p : List Byte) (s : State) : Host.Outcome State Fault Refusal :=
  let k := s.frame.plen.toNat
  match knownSpeed (selector p) (magnitude p) with
  | some (mode, speed) =>
    finish .ok (s.setStatus (statusRecord s.params p k mode speed) (truncated s.params k))
  | none =>
    finish .unknownSpeedStepMode
      ((countUnknownDraw s).setStatus
        (statusRecord s.params p k .unknown (unknownSpeed s.params.unknownModeSpeed s.draws)) (truncated s.params k))

/-- DECODE of a frame that is valid and of the status class: the payload length check (R148), the read of the payload
(R145), then the writes. -/
def decodeStatus (s : State) : Host.Outcome State Fault Refusal :=
  if s.frame.plen.toNat < 4 then raiseErr .shortStatusPayload s
  else
    match payloadBytes s (decodeLength s) with
    | none => hostFault .unwrittenRead s
    | some p => decodeWrites p s

/-- DECODE of a valid frame of any other class: "the frame is ignored" (R147). -/
def ignoreFrame (s : State) : Host.Outcome State Fault Refusal := raiseErr .unexpectedFrameType s

/-- DECODE (R145): frame validity (R146), then frame class (R147). -/
def execDecode (s : State) : Host.Outcome State Fault Refusal :=
  withValidFrame s fun s => if isStatusFrame s.frame then decodeStatus s else ignoreFrame s

/-- DECODE of a LOGOFF frame: a frame with no extended header never matches (R147). -/
def execLogoff (_xh : Byte) (s : State) : Host.Outcome State Fault Refusal := withValidFrame s ignoreFrame

/-- DECODE of a LOGIN frame: a frame with no extended header never matches (R147). -/
def execLogin (_xh : Byte) (s : State) : Host.Outcome State Fault Refusal := withValidFrame s ignoreFrame

/-- DECODE of a SUBSCRIBE_ALL frame: its header is not `[0x40, 0x00]` (R147). -/
def execSubscribeAll (s : State) : Host.Outcome State Fault Refusal := withValidFrame s ignoreFrame

/-- DECODE of a SUBSCRIBE_ONE frame: "its extended header is 0xE3, not 0xEF" (R139, R147). -/
def execSubscribeOne (s : State) : Host.Outcome State Fault Refusal := withValidFrame s ignoreFrame

/-- DECODE of a LOCO_STATUS frame, the one class DECODE reads (R88, R147). -/
def execLocoStatus (s : State) : Host.Outcome State Fault Refusal := withValidFrame s decodeStatus

end Sys2Proof.Machine
end

