-- ==== Sys2Proof/Machine/Dispatch.lean ====
section
/-! DEFINITION. The dispatch: one arm per constructor of Instr. -/

namespace Sys2Proof.Machine

/-- The meaning of each instruction. -/
def exec (i : Instr) (s : State) : Host.Outcome State Fault Refusal :=
  match i with
  | .nop => Sys2Proof.Machine.execNop s
  | .parse => Sys2Proof.Machine.execParse s
  | .serialize => Sys2Proof.Machine.execSerialize s
  | .checksum => Sys2Proof.Machine.execChecksum s
  | .decode => Sys2Proof.Machine.execDecode s
  | .buildLogoff => Sys2Proof.Machine.execBuildLogoff s
  | .buildLogin => Sys2Proof.Machine.execBuildLogin s
  | .buildSubAll => Sys2Proof.Machine.execBuildSubAll s
  | .buildSubLoco hi lo => Sys2Proof.Machine.execBuildSubLoco hi lo s
  | .logoff xh => Sys2Proof.Machine.execLogoff xh s
  | .login xh => Sys2Proof.Machine.execLogin xh s
  | .subscribeAll => Sys2Proof.Machine.execSubscribeAll s
  | .subscribeOne => Sys2Proof.Machine.execSubscribeOne s
  | .locoStatus => Sys2Proof.Machine.execLocoStatus s

end Sys2Proof.Machine
end

