-- ==== Sys2Proof/Machine/Engine.lean ====
section
/-! DEFINITION. The engine's step (R180), the order of the agents' steps (R65, R193), and the placing of an instruction
where the engine takes its next one. -/

namespace Sys2Proof.Machine

/-- The second word of DECODE: the wire class of the frame it consumes (R88, R89, R147), where the frame has one. Any
other instruction is itself. -/
def withFrameClass (s : State) (i : Instr) : Instr :=
  if i = .decode then (frameClass s.frame).getD .decode else i

/-- The instruction the engine runs for a pending word: the command word's (R81), and for DECODE the frame's class. -/
def fetch (s : State) (w : Word) : Except DecodeError Instr :=
  match decodeCommand w with
  | .ok i => .ok (withFrameClass s i)
  | .error e => .error e

/-- `PENDING <- none` at the end of the engine's step (R180). A host fault ends the step before that: "no agent steps
again" (R193). -/
def endCommand (s : State) : State := if s.fault.isSome then s else s.clearPending

/-- The end of the engine's step after an instruction. -/
def afterExec : Host.Outcome State Fault Refusal → Host.Outcome State Fault Refusal
  | .next s => .next (endCommand s)
  | .fault r => .fault r
  | .refused r => .refused r

/-- ENGINE STEP (R180). With no command pending the engine has no step and the state stays as it is. A word that is no
command ends in `BAD_COMMAND` (R84). -/
def engineStep (s : State) : Host.Outcome State Fault Refusal :=
  match s.pending with
  | none => .next s
  | some w =>
    match fetch s w with
    | .error _ => afterExec (raiseErr .badCommand s)
    | .ok i => afterExec (exec i s)

/-- One step: the next move (R65: the agents' steps "form one total order"). With a host fault recorded no agent steps
(R193); only the reset input still acts, and it does not clear `FAULT` (R45). -/
def machineStep (s : State) : Host.Outcome State Fault Refusal :=
  match s.moves with
  | .reset :: ms => .next (s.setMoves ms).resetBlock
  | .host a :: ms =>
    match s.fault with
    | some k => .fault (.hostFault k)
    | none => .next (access a (s.setMoves ms))
  | .engine :: ms =>
    match s.fault with
    | some k => .fault (.hostFault k)
    | none => engineStep (s.setMoves ms)
  | [] =>
    match s.fault with
    | some k => .fault (.hostFault k)
    | none => engineStep s

/-- The frame registers with the header and extended header of a wire key (R89); the rest as they were. -/
def frameWithKey (k : BitVec 25) (f : Frame) : Frame :=
  { f with hdr0 := keyHdr0 k, hdr1 := keyHdr1 k, xh := keyXh k, xhValid := keyXhValid k }

/-- Place a table word where the engine takes its next instruction. A command word goes where a `CMD` write puts it
(R26). A wire-class key goes into the frame registers, with DECODE, the command that looks the class up, pending. The
engine is given the next turn, and a recorded host fault, with which no agent steps, is removed. -/
def placeWord (s : State) (x : Word) : State :=
  let ready := { s with moves := .engine :: s.moves, fault := none }
  match decodeCommand x, decodeWire (x.setWidth 25) with
  | .error _, some _ => (ready.setFrame (frameWithKey (x.setWidth 25) s.frame)).setCommand (encode .decode)
  | _, _ => ready.setCommand x

end Sys2Proof.Machine
end

