-- ==== Sys2Proof/Machine/Step.lean ====
section
/-! DEFINITION. The step function, and the state with a given instruction as the next one to run. -/

namespace Sys2Proof.Machine

/-- One step of the machine (R65, R180). -/
def step (s : State) : Host.Outcome State Fault Refusal := machineStep s

/-- `s` with the table word `w` placed where the next step takes its instruction. -/
def State.withFetchWord (s : State) (nbits w : Nat) : State := placeWord s (tableWord nbits w)

end Sys2Proof.Machine
end

