-- ==== Sys2Proof/Safety.lean ====
section
/-! DEFINITION. What counts as a good state and a good end (R198), and the invariants claims are stated in terms of. -/

namespace Sys2Proof.Machine

/-- No host fault has been recorded (R193: "A faulted state is never a good end of a run"). -/
def State.unfaulted (s : State) : Prop := s.fault = none

/-- R198: the host program has stopped, `PENDING = none` and `FAULT = none`. -/
def State.goodEnd (s : State) : Prop := s.moves = [] ∧ s.pending = none ∧ s.fault = none

/-- Every buffer byte that holds a value is at a mapped buffer offset (R63). -/
def State.memMapped (s : State) : Prop := ∀ o v, Memory.read s.mem o = some v → bufferMapped s.params o = true

/-- The buffers' bytes are in canonical form and mapped (R46, R63). -/
def State.memInv (s : State) : Prop := Memory.wf s.mem = true ∧ s.memMapped

/-- R44, R26: a pending command is the word `CMD` reads back. -/
def State.commandInv (s : State) : Prop := ∀ w, s.pending = some w → s.cmd = w

/-- R32: "Every `FN[i]` with `i >= S_FNCNT.CNT` reads 0". -/
def State.fnPrefixInv (s : State) : Prop := ∀ i, s.status.fnCnt.toNat ≤ i → s.status.fn.getLsbD i = false

/-- R43: `CNT`'s values are "0 or `5 + 8k` with `0 <= k <= FN_EXT_MAX`". -/
def State.fnCountInv (s : State) : Prop :=
  s.status.fnCnt = 0#16 ∨ ∃ k, k ≤ s.params.fnExtMax ∧ s.status.fnCnt.toNat = 5 + 8 * k

/-- R40's code table, in a state with a status record: the mode is the one the raw selector gives. -/
def modeOfSelector (sel : BitVec 3) : StepMode :=
  if sel = 1#3 then .fourteenStep
  else if sel = 2#3 then .twentyEightStep
  else if sel = 4#3 then .hundredTwentySixStep
  else .unknown

/-- R40: `S_MODE.MODE` is the mode of `S_MODE.SEL` (at reset both are 0, which is Unknown). -/
def State.modeInv (s : State) : Prop := s.status.mode = modeOfSelector s.status.sel

/-- R155's ranges: in a known mode the speed is at most 126, in TwentyEightStep it is even and at most 28, and under
`ZERO` it is 0 in Unknown mode (R156). -/
def State.speedInv (s : State) : Prop :=
  (s.status.mode ≠ .unknown → s.status.speed.toNat ≤ 126) ∧
  (s.status.mode = .twentyEightStep → s.status.speed.toNat % 2 = 0 ∧ s.status.speed.toNat ≤ 28) ∧
  (s.status.mode = .unknown → s.params.unknownModeSpeed = .zero → s.status.speed = 0#7)

/-- R213: while `S_VALID` = 0 the status registers and `FN_TRUNC` are as reset leaves them. -/
def State.noRecordInv (s : State) : Prop :=
  s.flags.sValid = false → s.status = State.reset.status ∧ s.flags.fnTrunc = false

/-- The datagram in `TX` is whole: `TX_LEN` is at most `FRAME_MAX`, every byte below it holds a value, and the first
two bytes are `TX_LEN`, low byte first (R29, R111). -/
def State.txInv (s : State) : Prop :=
  s.txLen.toNat ≤ s.params.frameMax ∧
  (s.txLen = 0#16 ∨
    4 ≤ s.txLen.toNat ∧
    (∀ i, i < s.txLen.toNat → (Memory.read s.mem (txBase + i)).isSome = true) ∧
    ∃ lo hi, Memory.read s.mem txBase = some lo ∧ Memory.read s.mem (txBase + 1) = some hi ∧ le16 lo hi = s.txLen)

end Sys2Proof.Machine
end

