-- ==== Sys2Proof/Certificates/Slice0/Obligations.lean ====
section
/-! DEFINITION. The statements for the provers. Where a clause rests on a choice of the model's own, the docstring says
so and names the log entry. -/

namespace Sys2Proof.Machine

/-! ### Vocabulary of the statements, independent of the meanings -/

/-- The `n` bytes from offset `o` on hold the values `b 0`, `b 1`, ... -/
def holdsBytes (m : Memory) (o n : Nat) (b : Nat → Byte) : Prop :=
  ∀ i, i < n → Memory.read m (o + i) = some (b i)

/-- `m'` is `m` with the `n` bytes from `o` on replaced by `b 0`, `b 1`, ...; every other byte reads as before. -/
def storedBytes (m m' : Memory) (o n : Nat) (b : Nat → Byte) : Prop :=
  ∀ x, Memory.read m' x = if o ≤ x ∧ x < o + n then some (b (x - o)) else Memory.read m x

/-- `x ^ b 0 ^ ... ^ b (n - 1)` (R12). -/
def xorUpTo (x : Byte) (b : Nat → Byte) : Nat → Byte
  | 0 => x
  | n + 1 => xorUpTo x b n ^^^ b n

/-- `s` with another result code and nothing else changed (R181). -/
def onlyErr (s : State) (e : ErrCode) : State := { s with flags := { s.flags with err := e } }

/-- The frame registers are valid (R23). -/
def validFrame (s : State) : Prop :=
  s.frame.plen.toNat ≤ s.params.payMax ∧ (s.frame.plen.toNat = 0 ∨ s.frame.xhValid = true)

/-- The frame registers hold the LOCO_STATUS class (R88). -/
def holdsStatusClass (f : Frame) : Prop :=
  f.hdr0.toNat = 0x40 ∧ f.hdr1.toNat = 0x00 ∧ f.xhValid = true ∧ f.xh.toNat = 0xEF

/-- The instructions that run the status decoder on `s`: DECODE when the frame is of class LOCO_STATUS, and that wire
class itself when an extended header is present. -/
def decodesStatus (i : Instr) (s : State) : Prop :=
  (i = .decode ∧ holdsStatusClass s.frame) ∨ (i = .locoStatus ∧ s.frame.xhValid = true)

/-- Extension bytes used of a payload of `k` bytes (R158). -/
def usedExtension (p : Params) (k : Nat) : Nat := min (k - 5) p.fnExtMax

/-- Function `n` of a payload of at least five bytes of which `e` extension bytes are used (R158 to R160). -/
def functionOf (p : Nat → Byte) (e n : Nat) : Bool :=
  if n = 0 then (p 4).getLsbD 4
  else if n ≤ 4 then (p 4).getLsbD (n - 1)
  else if n < 5 + 8 * e then (p (5 + (n - 5) / 8)).getLsbD ((n - 5) % 8)
  else false

/-- The window's map (R63), by byte offset. -/
def windowMapped (p : Params) (o : Nat) : Prop :=
  o ≤ 0x27 ∨ (0x30 ≤ o ∧ o ≤ 0x43) ∨ (0x80 ≤ o ∧ o ≤ 0x87) ∨ (0x400 ≤ o ∧ o ≤ 0x7FF) ∨
  (0x1000 ≤ o ∧ o < 0x1000 + p.frameMax) ∨ (0x2000 ≤ o ∧ o < 0x2000 + p.frameMax) ∨
  (0x3000 ≤ o ∧ o < 0x3000 + p.payMax)

/-- The read-only register offsets of R61. -/
def readOnlyRegister (o : Nat) : Prop :=
  o = 0x004 ∨ o = 0x00C ∨ o = 0x024 ∨ o = 0x030 ∨ o = 0x034 ∨ o = 0x038 ∨ o = 0x03C ∨ o = 0x040 ∨
  o = 0x080 ∨ o = 0x084 ∨ (0x400 ≤ o ∧ o ≤ 0x7FC ∧ o % 4 = 0)

/-- Offset of an access, and how many bytes it reaches. -/
def accessSpan : Access → Nat × Nat
  | .read8 o => (o, 1)
  | .read32 o => (o, 4)
  | .write8 o _ => (o, 1)
  | .write32 o _ => (o, 4)

/-- An access of a width and alignment R56 allows, to mapped bytes only (R63). -/
def soundAccess (p : Params) (a : Access) : Prop :=
  ((accessSpan a).2 = 4 → (accessSpan a).1 % 4 = 0) ∧
  ((accessSpan a).2 = 1 → 0x1000 ≤ (accessSpan a).1) ∧
  ∀ i, i < (accessSpan a).2 → windowMapped p ((accessSpan a).1 + i)

/-- The accesses R220 allows while `BUSY` = 1. -/
def allowedWhileBusy (a : Access) : Prop := a = .read32 0x004 ∨ a = .read32 0x080 ∨ a = .read32 0x084

/-- The memory offsets an instruction may store to, computed as its meaning computes them: PARSE stores its payload,
SERIALIZE its datagram, the two subscribe builders three payload bytes. -/
def storesTo (i : Instr) (s : State) (x : Nat) : Prop :=
  match i with
  | .parse => payBase ≤ x ∧ x < payBase + (s.rxLen.toNat - 6)
  | .serialize => txBase ≤ x ∧ x < txBase + (if s.frame.xhValid then 6 + s.frame.plen.toNat else 4)
  | .buildSubAll => payBase ≤ x ∧ x < payBase + 3
  | .buildSubLoco _ _ => payBase ≤ x ∧ x < payBase + 3
  | _ => False

/-- The host writes of R140 that load a frame by hand. -/
def hostFrameWrites (h0 h1 : Byte) (xhWord : Word) (pay : List Byte) (len : Word) : List Access :=
  [.write32 0x014 (wordOfBytes h0 h1 0#8 0#8), .write32 0x018 xhWord] ++
  (pay.zipIdx.map fun b => Access.write8 (0x3000 + b.2) b.1) ++
  [.write32 0x01C (BitVec.ofNat 32 pay.length), .write32 0x020 0#32, .write32 0x010 len]

/-- The state after host accesses, in order. -/
def afterAccesses (as : List Access) (s : State) : State := as.foldl (fun t a => access a t) s

/-- The engine has the next move: its own turn, or nothing is to come from outside; `s0` is the state it runs in. -/
def engineNext (s s0 : State) : Prop :=
  s.fault = none ∧ ((s.moves = [] ∧ s0 = s) ∨ ∃ ms, s.moves = .engine :: ms ∧ s0 = { s with moves := ms })

end Sys2Proof.Machine

open Sys2Proof Sys2Proof.Machine

/-! ### Encodings -/

/-- 30_encoding.md sections 2 and 5: every instruction's word decodes to it, with every operand byte, from the word
and from its four bytes in window order. -/
def Obligations.DecodeEncodeRoundTrip : Prop :=
  ∀ (i : Instr) (rest : List Byte),
    decodeRow (encode i) = .ok i ∧ decodeBytes (bytesOfWord (encode i) ++ rest) = .ok (i, rest)

/-- 30_encoding.md sections 2 and 5: a command word has one reading: it is the word the encoder gives its instruction,
and its low 25 bits are no wire class's key. -/
def Obligations.CommandWordHasOneReading : Prop :=
  ∀ (w : Word) (i : Instr), decodeCommand w = .ok i →
    encode i = w ∧ i.isCommand = true ∧ decodeWire (w.setWidth 25) = none

/-- 30_encoding.md section 5: a wire key has one reading, and its class is a WIRE row. -/
def Obligations.WireKeyHasOneReading : Prop :=
  ∀ (k : BitVec 25) (i : Instr), decodeWire k = some i → encode i = k.setWidth 32 ∧ i.isCommand = false

/-- R84: the three cases of a reserved word, written over its bit fields; the engine's turn on such a word writes
`BAD_COMMAND` and ends the command, and changes nothing else; the host's write of it is stored in `CMD` and makes it
pending, as any other. -/
def Obligations.ReservedWordRaisesBadCommand : Prop :=
  ∀ (s s0 : State) (w : Word), engineNext s s0 → s0.pending = some w →
    (w.toNat / 0x1000000 ≠ 0 ∨
      (0x05 ≤ w.toNat % 0x100 ∧ w.toNat % 0x100 ≤ 0x0F) ∨
      0x14 ≤ w.toNat % 0x100 ∨
      (w.toNat % 0x100 ≠ 0x13 ∧ w.toNat / 0x100 % 0x10000 ≠ 0)) →
    step s = .next { onlyErr s0 .badCommand with pending := none } ∧
    ∀ u : State, u.pending = none → access (.write32 0x000 w) u = { u with cmd := w, pending := some w }

/-- 30_encoding.md, the opcode map and the wire classes: words written out from the spec decode to their
instructions, and some reserved words are refused by name. -/
def Obligations.SpecWordsDecode : Prop :=
  decodeRow 0x00000000#32 = .ok .nop ∧ decodeRow 0x00000001#32 = .ok .parse ∧
  decodeRow 0x00000002#32 = .ok .serialize ∧ decodeRow 0x00000003#32 = .ok .checksum ∧
  decodeRow 0x00000004#32 = .ok .decode ∧ decodeRow 0x00000010#32 = .ok .buildLogoff ∧
  decodeRow 0x00000011#32 = .ok .buildLogin ∧ decodeRow 0x00000012#32 = .ok .buildSubAll ∧
  decodeRow 0x000F2713#32 = .ok (.buildSubLoco 0x27#8 0x0F#8) ∧
  decodeRow 0x00000030#32 = .ok (.logoff 0x00#8) ∧ decodeRow 0x00560110#32 = .ok (.login 0x56#8) ∧
  decodeRow 0x01000050#32 = .ok .subscribeAll ∧ decodeRow 0x01E30040#32 = .ok .subscribeOne ∧
  decodeRow 0x01EF0040#32 = .ok .locoStatus ∧
  decodeCommand 0x00000005#32 = .error .unknownOpcode ∧ decodeCommand 0x00010001#32 = .error .operandNotZero ∧
  decodeCommand 0x01000013#32 = .error .rsvdNotZero

/-! ### The step -/

/-- 60_exceptions.md section 1: when the engine has the next move and the pending word decodes to a command, the step is
that command, followed by the end of the command: `PENDING` is cleared when no host fault was raised. (That a host fault
leaves `PENDING` is the model's choice, log entry 6.) -/
def Obligations.StepRunsPendingCommand : Prop :=
  ∀ (s s0 : State) (w : Word) (i : Instr), engineNext s s0 → s0.pending = some w → decodeCommand w = .ok i →
    (∀ t, exec i s0 = .next t → t.fault = none → step s = .next { t with pending := none }) ∧
    (∀ t, exec i s0 = .next t → t.fault ≠ none → step s = .next t)

/-- 42_status_decoder.md section 2 and 30_encoding.md section 5: DECODE on a frame is its wire class's instruction: the
table's key match and R147's byte comparison agree on every state. (That wire-class rows run this way is the model's
choice, log entry 4.) -/
def Obligations.WireClassRefinesDecode : Prop :=
  ∀ (s : State) (i : Instr), frameClass s.frame = some i → exec i s = exec .decode s

/-- The next step runs exactly the table word placed by `withFetchWord` (the model's choice for wire words, log
entry 4), then ends the command. -/
def Obligations.StepRunsPlacedWord : Prop :=
  ∀ (s : State) (nbits w : Nat) (i : Instr), decodeTableWord nbits w = some i →
    step (s.withFetchWord nbits w) = afterExec (exec i { s.withFetchWord nbits w with moves := s.moves })

/-- 60_exceptions.md sections 1 and 8 (no command waits, nothing stops the block): with no host fault recorded, every
step answers a next state. (That an idle block's step leaves the state as it is, is the model's choice, log entry 5.) -/
def Obligations.UnfaultedStepAnswers : Prop :=
  ∀ s : State, s.fault = none → ∃ t, step s = .next t

/-- 60_exceptions.md section 1 and 20_memory.md section 3: when the next move is a host access and no host fault is
recorded, the step is that access. (The queue of coming moves is the model's own, log entry 5.) -/
def Obligations.StepRunsHostAccess : Prop :=
  ∀ (s : State) (a : Access) (ms : List Move), s.moves = .host a :: ms → s.fault = none →
    step s = .next (access a { s with moves := ms })

/-- 60_exceptions.md section 1: one turn of the engine runs the pending command: afterwards no command is pending,
unless a byte with no value was read. -/
def Obligations.EngineTurnEndsCommand : Prop :=
  ∀ s s0 : State, engineNext s s0 →
    ∃ t, step s = .next t ∧ (t.pending = none ∨ (t.fault = some .unwrittenRead ∧ t.pending = s.pending))

/-- 60_exceptions.md section 5: with a host fault recorded no agent steps: every step that is not a reset stops, with
that fault, and a reset keeps it. -/
def Obligations.HostFaultIsSticky : Prop :=
  ∀ (s : State) (k : HostFault), s.fault = some k →
    ((∀ ms, s.moves ≠ .reset :: ms) → step s = .fault (.hostFault k)) ∧
    (∀ t, step s = .next t → t.fault = some k)

/-! ### NOP, PARSE -/

/-- R100: `NOP` writes `STATUS.ERR <- 0` and changes nothing else. -/
def Obligations.NopOnlyClearsErr : Prop :=
  ∀ s : State, exec .nop s = .next (onlyErr s .ok)

/-- R104: PARSE rejects by `RX_LEN` alone, and then writes only the code. -/
def Obligations.ParseRejectsByLength : Prop :=
  ∀ s : State,
    (s.rxLen.toNat < 5 → exec .parse s = .next (onlyErr s .malformedFrame)) ∧
    (s.params.frameMax < s.rxLen.toNat → exec .parse s = .next (onlyErr s .frameTooLong))

/-- 40_codec.md section 3: PARSE of a held datagram of 5 to `FRAME_MAX` bytes: every frame register, the payload bytes,
the fold and `CKSUM_OK`, and nothing else. -/
def Obligations.ParseExtractsFields : Prop :=
  ∀ (s : State) (d : Nat → Byte), 5 ≤ s.rxLen.toNat → s.rxLen.toNat ≤ s.params.frameMax →
    holdsBytes s.mem rxBase s.rxLen.toNat d →
    ∃ m, storedBytes s.mem m payBase (s.rxLen.toNat - 6) (fun i => d (5 + i)) ∧
      exec .parse s = .next { s with
        mem := m
        frame := {
          len := BitVec.ofNat 16 ((d 0).toNat + 256 * (d 1).toNat)
          hdr0 := d 2
          hdr1 := d 3
          xh := d 4
          xhValid := true
          plen := BitVec.ofNat 16 (s.rxLen.toNat - 6)
          ck := d (s.rxLen.toNat - 1)
          ckValid := true }
        ckCalc := xorUpTo (d 4) (fun i => d (5 + i)) (s.rxLen.toNat - 6)
        flags := { s.flags with
          err := .ok
          cksumOk := decide (d (s.rxLen.toNat - 1) = xorUpTo (d 4) (fun i => d (5 + i)) (s.rxLen.toNat - 6)) } }

/-- R46 for the commands' reads, at the bytes 70_reset_and_hazards.md section 3 lists: a byte with no value among those
PARSE, SERIALIZE, CHECKSUM or DECODE reads gives `UNWRITTEN_READ`, and nothing else changes. (That the LOCO_STATUS row
reads what DECODE reads is the model's choice, log entry 4; that `PENDING` and all else stay is read from R193, log
entry 6.) -/
def Obligations.CommandReadOfUnwrittenByteFaults : Prop :=
  ∀ (s : State) (j : Nat),
    (5 ≤ s.rxLen.toNat → s.rxLen.toNat ≤ s.params.frameMax → j < s.rxLen.toNat →
      Memory.read s.mem (rxBase + j) = none → exec .parse s = .next { s with fault := some .unwrittenRead }) ∧
    (s.frame.plen.toNat ≤ s.params.payMax → s.frame.xhValid = true → j < s.frame.plen.toNat →
      Memory.read s.mem (payBase + j) = none →
      exec .serialize s = .next { s with fault := some .unwrittenRead } ∧
      exec .checksum s = .next { s with fault := some .unwrittenRead }) ∧
    (∀ i, decodesStatus i s → 4 ≤ s.frame.plen.toNat → s.frame.plen.toNat ≤ s.params.payMax →
      j < min s.frame.plen.toNat (5 + s.params.fnExtMax) → Memory.read s.mem (payBase + j) = none →
      exec i s = .next { s with fault := some .unwrittenRead })

/-! ### The fold, SERIALIZE, CHECKSUM -/

/-- R102: the fold is the running exclusive-or; `fold(x, [])` is `x`; the order of the bytes does not matter; appending
the fold gives zero; a byte repeated an even number of times cancels out. -/
def Obligations.FoldIsRunningXor : Prop :=
  ∀ (x : Byte) (s : List Byte),
    fold x [] = x ∧
    (∀ b, fold x (s ++ [b]) = fold x s ^^^ b) ∧
    (∀ u, s.Perm u → fold x s = fold x u) ∧
    fold x (s ++ [fold x s]) = 0#8 ∧
    (∀ b n, fold x (List.replicate (2 * n) b ++ s) = fold x s)

/-- R110 and R116: SERIALIZE's two checks and CHECKSUM's three, in their order; each writes the code and nothing
else. -/
def Obligations.SerializeAndChecksumErrorsInOrder : Prop :=
  ∀ s : State,
    (s.params.payMax < s.frame.plen.toNat → exec .serialize s = .next (onlyErr s .frameTooLong)) ∧
    (s.frame.plen.toNat ≤ s.params.payMax → 0 < s.frame.plen.toNat → s.frame.xhValid = false →
      exec .serialize s = .next (onlyErr s .invalidFrame)) ∧
    (s.params.payMax < s.frame.plen.toNat → exec .checksum s = .next (onlyErr s .frameTooLong)) ∧
    (s.frame.plen.toNat ≤ s.params.payMax → 0 < s.frame.plen.toNat → s.frame.xhValid = false →
      exec .checksum s = .next (onlyErr s .invalidFrame)) ∧
    (s.frame.plen.toNat ≤ s.params.payMax → s.frame.plen.toNat = 0 → s.frame.xhValid = false →
      exec .checksum s = .next (onlyErr s .noChecksum))

/-- R111: SERIALIZE of a valid frame: every byte of `TX`, `TX_LEN`, `F_LEN`, `CK_CALC` and the code, and nothing else.
With an extended header it is `6 + PLEN` bytes; without one it is the four bytes `04 00 h0 h1`, and `F_CK`, `XH` and
`CK_CALC` play no part (40_codec.md section 4). -/
def Obligations.SerializeEmitsDatagram : Prop :=
  (∀ (s : State) (p : Nat → Byte), s.params.legal = true → s.frame.plen.toNat ≤ s.params.payMax →
    s.frame.xhValid = true → holdsBytes s.mem payBase s.frame.plen.toNat p →
    ∃ m, storedBytes s.mem m txBase (6 + s.frame.plen.toNat) (fun i =>
        if i = 0 then BitVec.ofNat 8 ((6 + s.frame.plen.toNat) % 256)
        else if i = 1 then BitVec.ofNat 8 ((6 + s.frame.plen.toNat) / 256)
        else if i = 2 then s.frame.hdr0
        else if i = 3 then s.frame.hdr1
        else if i = 4 then s.frame.xh
        else if i < 5 + s.frame.plen.toNat then p (i - 5)
        else if s.frame.ckValid then s.frame.ck
        else xorUpTo s.frame.xh p s.frame.plen.toNat) ∧
      exec .serialize s = .next { s with
        mem := m
        txLen := BitVec.ofNat 16 (6 + s.frame.plen.toNat)
        frame := { s.frame with len := BitVec.ofNat 16 (6 + s.frame.plen.toNat) }
        ckCalc := xorUpTo s.frame.xh p s.frame.plen.toNat
        flags := { s.flags with err := .ok } }) ∧
  ∀ s : State, s.frame.plen.toNat = 0 → s.frame.xhValid = false →
    ∃ m, storedBytes s.mem m txBase 4 (fun i =>
        if i = 0 then 4#8 else if i = 1 then 0#8 else if i = 2 then s.frame.hdr0 else s.frame.hdr1) ∧
      exec .serialize s = .next { s with
        mem := m
        txLen := 4#16
        frame := { s.frame with len := 4#16 }
        flags := { s.flags with err := .ok } }

/-- R117: CHECKSUM's fold and flag, and nothing else but the code. -/
def Obligations.ChecksumComparesFold : Prop :=
  ∀ (s : State) (p : Nat → Byte), s.frame.plen.toNat ≤ s.params.payMax → s.frame.xhValid = true →
    holdsBytes s.mem payBase s.frame.plen.toNat p →
    exec .checksum s = .next { s with
      ckCalc := xorUpTo s.frame.xh p s.frame.plen.toNat
      flags := { s.flags with
        err := .ok
        cksumOk := s.frame.ckValid && decide (s.frame.ck = xorUpTo s.frame.xh p s.frame.plen.toNat) } }

/-- R113: SERIALIZE, a copy of `TX[0:TX_LEN]` into `RX` with `RX_LEN <- TX_LEN`, then PARSE: a valid frame with an
extended header comes back; without one, PARSE answers `MALFORMED_FRAME`. -/
def Obligations.ParseOfSerializeRoundTrips : Prop :=
  ∀ (s : State) (p : Nat → Byte), s.params.legal = true → validFrame s →
    holdsBytes s.mem payBase s.frame.plen.toNat p →
    ∃ t, exec .serialize s = .next t ∧
      ∀ m : Memory, (∀ i, i < t.txLen.toNat → Memory.read m (rxBase + i) = Memory.read t.mem (txBase + i)) →
        (s.frame.xhValid = true →
          ∃ u, exec .parse { t with mem := m, rxLen := t.txLen } = .next u ∧
            u.flags.err = .ok ∧
            u.frame.hdr0 = s.frame.hdr0 ∧ u.frame.hdr1 = s.frame.hdr1 ∧
            u.frame.xh = s.frame.xh ∧ u.frame.xhValid = true ∧ u.frame.plen = s.frame.plen ∧
            holdsBytes u.mem payBase s.frame.plen.toNat p ∧
            u.frame.len.toNat = 6 + s.frame.plen.toNat ∧
            u.frame.ckValid = true ∧
            u.frame.ck = (if s.frame.ckValid then s.frame.ck else xorUpTo s.frame.xh p s.frame.plen.toNat) ∧
            (u.flags.cksumOk = true ↔ u.frame.ck = xorUpTo s.frame.xh p s.frame.plen.toNat)) ∧
        (s.frame.xhValid = false →
          t.txLen.toNat = 4 ∧
          exec .parse { t with mem := m, rxLen := t.txLen } =
            .next (onlyErr { t with mem := m, rxLen := t.txLen } .malformedFrame))

/-- R114: PARSE then SERIALIZE of a buffer of `n >= 6` bytes emits the same bytes, with the length field `n`; a 5-byte
buffer `d` is emitted as `06 00 d[2] d[3] d[4] d[4]`. -/
def Obligations.SerializeOfParseReemits : Prop :=
  ∀ (s : State) (d : Nat → Byte), s.params.legal = true → 5 ≤ s.rxLen.toNat → s.rxLen.toNat ≤ s.params.frameMax →
    holdsBytes s.mem rxBase s.rxLen.toNat d →
    ∃ t u, exec .parse s = .next t ∧ exec .serialize t = .next u ∧ u.flags.err = .ok ∧
      (6 ≤ s.rxLen.toNat →
        u.txLen = s.rxLen ∧
        Memory.read u.mem txBase = some (BitVec.ofNat 8 (s.rxLen.toNat % 256)) ∧
        Memory.read u.mem (txBase + 1) = some (BitVec.ofNat 8 (s.rxLen.toNat / 256)) ∧
        ∀ i, 2 ≤ i → i < s.rxLen.toNat → Memory.read u.mem (txBase + i) = some (d i)) ∧
      (s.rxLen.toNat = 5 →
        u.txLen.toNat = 6 ∧
        Memory.read u.mem txBase = some 6#8 ∧ Memory.read u.mem (txBase + 1) = some 0#8 ∧
        Memory.read u.mem (txBase + 2) = some (d 2) ∧ Memory.read u.mem (txBase + 3) = some (d 3) ∧
        Memory.read u.mem (txBase + 4) = some (d 4) ∧ Memory.read u.mem (txBase + 5) = some (d 4))

/-! ### The frame builders -/

/-- 41_frame_builders.md: each BUILD command loads its frame registers, and the two subscribes `PAY[0]` to `PAY[2]`, and
nothing else but the code; BUILD_LOGOFF and BUILD_LOGIN do not touch `PAY`. -/
def Obligations.BuildersLoadTheirFrames : Prop :=
  ∀ s : State,
    exec .buildLogoff s = .next { s with
      frame := { len := 4#16, hdr0 := 0x30#8, hdr1 := 0x00#8, xh := 0x00#8, xhValid := false, plen := 0#16,
                 ck := 0#8, ckValid := false }
      flags := { s.flags with err := .ok } } ∧
    exec .buildLogin s = .next { s with
      frame := { len := 4#16, hdr0 := 0x10#8, hdr1 := 0x01#8, xh := 0x00#8, xhValid := false, plen := 0#16,
                 ck := 0#8, ckValid := false }
      flags := { s.flags with err := .ok } } ∧
    (∃ m, storedBytes s.mem m payBase 3 (fun i => if i = 0 then 0x01#8 else if i = 1 then 0x00#8 else 0x01#8) ∧
      exec .buildSubAll s = .next { s with
        mem := m
        frame := { len := 9#16, hdr0 := 0x50#8, hdr1 := 0x00#8, xh := 0x00#8, xhValid := true, plen := 3#16,
                   ck := 0#8, ckValid := false }
        flags := { s.flags with err := .ok } }) ∧
    (∀ hi lo : Byte, ∃ m,
      storedBytes s.mem m payBase 3 (fun i => if i = 0 then 0xF0#8 else if i = 1 then hi else lo) ∧
      exec (.buildSubLoco hi lo) s = .next { s with
        mem := m
        frame := { len := 9#16, hdr0 := 0x40#8, hdr1 := 0x00#8, xh := 0xE3#8, xhValid := true, plen := 3#16,
                   ck := 0#8, ckValid := false }
        flags := { s.flags with err := .ok } })

/-- 41_frame_builders.md sections 2 to 5: each BUILD command and then SERIALIZE leaves its datagram in `TX`: logoff and
login in four bytes, the subscribes in nine, with the checksums 0x00 and `0x13 ^ hi ^ lo`. -/
def Obligations.BuiltDatagrams : Prop :=
  ∀ s : State, s.params.legal = true →
    (∀ i h0 h1, ((i = .buildLogoff ∧ h0 = 0x30#8 ∧ h1 = 0x00#8) ∨ (i = .buildLogin ∧ h0 = 0x10#8 ∧ h1 = 0x01#8)) →
      ∃ t u, exec i s = .next t ∧ exec .serialize t = .next u ∧ u.flags.err = .ok ∧ u.txLen = 4#16 ∧
        Memory.readBytes u.mem txBase 4 = some [0x04#8, 0x00#8, h0, h1]) ∧
    (∃ t u, exec .buildSubAll s = .next t ∧ exec .serialize t = .next u ∧ u.flags.err = .ok ∧ u.txLen = 9#16 ∧
      Memory.readBytes u.mem txBase 9 =
        some [0x09#8, 0x00#8, 0x50#8, 0x00#8, 0x00#8, 0x01#8, 0x00#8, 0x01#8, 0x00#8]) ∧
    (∀ hi lo : Byte, ∃ t u, exec (.buildSubLoco hi lo) s = .next t ∧ exec .serialize t = .next u ∧
      u.flags.err = .ok ∧ u.txLen = 9#16 ∧
      Memory.readBytes u.mem txBase 9 =
        some [0x09#8, 0x00#8, 0x40#8, 0x00#8, 0xE3#8, 0xF0#8, hi, lo, 0x13#8 ^^^ hi ^^^ lo])

/-- R140: each BUILD command leaves what a host that makes the same writes through `F_HDR`, `F_XH`, `PAY`, `F_PLEN`,
`F_CK` and `F_LEN` leaves, but for the code; and SERIALIZE gives the same bytes whatever the code is. -/
def Obligations.BuildEqualsHostWrites : Prop :=
  ∀ s : State, s.params.legal = true → s.pending = none →
    exec .buildLogoff s = .next (onlyErr (afterAccesses (hostFrameWrites 0x30#8 0x00#8 0#32 [] 4#32) s) .ok) ∧
    exec .buildLogin s = .next (onlyErr (afterAccesses (hostFrameWrites 0x10#8 0x01#8 0#32 [] 4#32) s) .ok) ∧
    exec .buildSubAll s = .next (onlyErr (afterAccesses
      (hostFrameWrites 0x50#8 0x00#8 0x100#32 [0x01#8, 0x00#8, 0x01#8] 9#32) s) .ok) ∧
    (∀ hi lo : Byte, exec (.buildSubLoco hi lo) s = .next (onlyErr (afterAccesses
      (hostFrameWrites 0x40#8 0x00#8 0x1E3#32 [0xF0#8, hi, lo] 9#32) s) .ok)) ∧
    ∀ (t : State) (e : ErrCode), ∃ u v, exec .serialize t = .next u ∧ exec .serialize (onlyErr t e) = .next v ∧
      v.mem = u.mem ∧ v.txLen = u.txLen

/-- 30_encoding.md section 5: the frame each BUILD command loads is of its wire class. -/
def Obligations.BuiltFramesHaveTheirClass : Prop :=
  ∀ s : State,
    (∃ t, exec .buildLogoff s = .next t ∧ frameClass t.frame = some (.logoff 0x00#8)) ∧
    (∃ t, exec .buildLogin s = .next t ∧ frameClass t.frame = some (.login 0x00#8)) ∧
    (∃ t, exec .buildSubAll s = .next t ∧ frameClass t.frame = some .subscribeAll) ∧
    (∀ hi lo : Byte, ∃ t, exec (.buildSubLoco hi lo) s = .next t ∧ frameClass t.frame = some .subscribeOne)

/-! ### DECODE and the wire classes -/

/-- 60_exceptions.md section 3 and 42_status_decoder.md section 2: DECODE's errors in their order; each writes the code
and nothing else. -/
def Obligations.DecodeErrorsInOrder : Prop :=
  ∀ s : State,
    (s.params.payMax < s.frame.plen.toNat → exec .decode s = .next (onlyErr s .frameTooLong)) ∧
    (s.frame.plen.toNat ≤ s.params.payMax → 0 < s.frame.plen.toNat → s.frame.xhValid = false →
      exec .decode s = .next (onlyErr s .invalidFrame)) ∧
    (validFrame s → ¬ holdsStatusClass s.frame → exec .decode s = .next (onlyErr s .unexpectedFrameType)) ∧
    (validFrame s → holdsStatusClass s.frame → s.frame.plen.toNat < 4 →
      exec .decode s = .next (onlyErr s .shortStatusPayload))

/-- 42_status_decoder.md section 2: the wire classes. A frame that fails the frame checks gets their code; a valid
frame of a class DECODE does not read is ignored: the code is `UNEXPECTED_FRAME_TYPE`; a LOCO_STATUS frame of fewer than
4 payload bytes gets `SHORT_STATUS_PAYLOAD`. Nothing but the code changes. (Log entry 4: a wire-class row's meaning is
what DECODE does with a frame of that class.) -/
def Obligations.WireClassCodes : Prop :=
  ∀ (i : Instr) (s : State),
    (i.isCommand = false →
      (s.params.payMax < s.frame.plen.toNat → exec i s = .next (onlyErr s .frameTooLong)) ∧
      (s.frame.plen.toNat ≤ s.params.payMax → 0 < s.frame.plen.toNat → s.frame.xhValid = false →
        exec i s = .next (onlyErr s .invalidFrame))) ∧
    ((∃ xh, i = .logoff xh) ∨ (∃ xh, i = .login xh) ∨ i = .subscribeAll ∨ i = .subscribeOne →
      validFrame s → exec i s = .next (onlyErr s .unexpectedFrameType)) ∧
    (i = .locoStatus → validFrame s → s.frame.plen.toNat < 4 → exec i s = .next (onlyErr s .shortStatusPayload))

/-- 42_status_decoder.md sections 3 and 4: the record DECODE writes, in every mode: the address under either formula,
mode, selector, speed, direction, and the code; `CKSUM_OK` and every other register keep their values. The speed in
Unknown mode is 0 under `ZERO`; under `DRAW` it is the free value `Config.draw 7 s.draws` and the statement holds
whatever that is (log entry 3). That the LOCO_STATUS row writes what DECODE writes is the model's choice (log entry 4). -/
def Obligations.DecodeWritesRecord : Prop :=
  ∀ (i : Instr) (s : State) (p : Nat → Byte), decodesStatus i s → s.params.legal = true →
    4 ≤ s.frame.plen.toNat → s.frame.plen.toNat ≤ s.params.payMax →
    holdsBytes s.mem payBase (min s.frame.plen.toNat (5 + s.params.fnExtMax)) p →
    ∃ r tr n e, exec i s = .next { s with
        status := r
        draws := n
        flags := { err := e, cksumOk := s.flags.cksumOk, sValid := true, fnTrunc := tr } } ∧
      (s.params.addressFormula = .maskedShift → r.addr.toNat = (p 0).toNat % 64 * 256 + (p 1).toNat) ∧
      (s.params.addressFormula = .sourceLiteral → r.addr.toNat = (p 1).toNat) ∧
      r.sel.toNat = (p 2).toNat % 8 ∧
      r.dir = (if 128 ≤ (p 3).toNat then .forward else .backward) ∧
      ((p 2).toNat % 8 = 1 → r.mode = .fourteenStep ∧
        (r.speed.toNat : Int) = max 0 (((p 3).toNat % 128 : Int) - 1) ∧ e = .ok ∧ n = s.draws) ∧
      ((p 2).toNat % 8 = 2 → r.mode = .twentyEightStep ∧
        (r.speed.toNat : Int) = max 0 (2 * (((p 3).toNat % 16 : Int) - 1)) ∧ e = .ok ∧ n = s.draws) ∧
      ((p 2).toNat % 8 = 4 → r.mode = .hundredTwentySixStep ∧
        (r.speed.toNat : Int) = max 0 (((p 3).toNat % 128 : Int) - 1) ∧ e = .ok ∧ n = s.draws) ∧
      ((p 2).toNat % 8 = 0 ∨ (p 2).toNat % 8 = 3 ∨ (p 2).toNat % 8 = 5 ∨ (p 2).toNat % 8 = 6 ∨ (p 2).toNat % 8 = 7 →
        r.mode = .unknown ∧ e = .unknownSpeedStepMode ∧
        (s.params.unknownModeSpeed = .zero → r.speed = 0#7 ∧ n = s.draws) ∧
        (s.params.unknownModeSpeed = .draw → r.speed = Config.draw 7 s.draws ∧ n = s.draws + 1))

/-- 42_status_decoder.md section 5: the bitmap, bit by bit, the count and `FN_TRUNC` that DECODE leaves. (That the
LOCO_STATUS row leaves what DECODE leaves is the model's choice, log entry 4.) -/
def Obligations.DecodeWritesFunctions : Prop :=
  ∀ (i : Instr) (s : State) (p : Nat → Byte), decodesStatus i s → s.params.legal = true →
    4 ≤ s.frame.plen.toNat → s.frame.plen.toNat ≤ s.params.payMax →
    holdsBytes s.mem payBase (min s.frame.plen.toNat (5 + s.params.fnExtMax)) p →
    ∃ t, exec i s = .next t ∧
      (s.frame.plen.toNat < 5 → t.status.fn = 0#8192 ∧ t.status.fnCnt = 0#16 ∧ t.flags.fnTrunc = false) ∧
      (5 ≤ s.frame.plen.toNat →
        (∀ n, t.status.fn.getLsbD n = functionOf p (usedExtension s.params s.frame.plen.toNat) n) ∧
        t.status.fnCnt.toNat = 5 + 8 * usedExtension s.params s.frame.plen.toNat ∧
        (t.flags.fnTrunc = true ↔ s.params.fnExtMax < s.frame.plen.toNat - 5))

/-- R149: `F_CK`, `F_LEN`, `CK_CALC` and `STATUS.CKSUM_OK` play no part in DECODE: two states that differ only there, and
in the number of draws taken, get the same code, `S_VALID`, `FN_TRUNC`, fault and record, but for the speed where it is
a free value (`DRAW` in Unknown mode). -/
def Obligations.DecodeIgnoresChecksumAndLength : Prop :=
  ∀ (s : State) (ck : Byte) (ckValid : Bool) (len : Half) (calculated : Byte) (cksumOk : Bool) (n : Nat),
    ∃ t u, exec .decode s = .next t ∧
      exec .decode { s with
        frame := { s.frame with ck := ck, ckValid := ckValid, len := len }
        ckCalc := calculated
        flags := { s.flags with cksumOk := cksumOk }
        draws := n } = .next u ∧
      u.status = { t.status with speed := u.status.speed } ∧
      (t.flags.err ≠ .unknownSpeedStepMode ∨ s.params.unknownModeSpeed = .zero → u.status.speed = t.status.speed) ∧
      u.flags.err = t.flags.err ∧ u.flags.sValid = t.flags.sValid ∧
      u.flags.fnTrunc = t.flags.fnTrunc ∧ u.fault = t.fault

/-- 42_status_decoder.md section 6: decoding the same frame twice gives the same state as decoding it once, unless a
draw is taken (`DRAW` in Unknown mode). -/
def Obligations.DecodeIsIdempotent : Prop :=
  ∀ s t : State, exec .decode s = .next t → t.draws = s.draws → exec .decode t = .next t

/-! ### Frames and errors -/

/-- 10_state.md section 6, the write matrix: what each command never writes, and, last, what a host access never writes.
The matrix has no column for the wire classes: that LOCO_STATUS writes as DECODE does, and the other four at most the
code, is the model's choice (log entry 4). -/
def Obligations.WriteMatrixHolds : Prop :=
  (∀ (i : Instr) (s t : State), s.params.legal = true → exec i s = .next t →
    t.cmd = s.cmd ∧ t.pending = s.pending ∧
    (i ≠ .parse → i ≠ .checksum → t.flags.cksumOk = s.flags.cksumOk) ∧
    (i ≠ .decode → i ≠ .locoStatus → t.flags.sValid = s.flags.sValid ∧ t.flags.fnTrunc = s.flags.fnTrunc) ∧
    t.rxLen = s.rxLen ∧
    (∀ j, j < s.params.frameMax → Memory.read t.mem (rxBase + j) = Memory.read s.mem (rxBase + j)) ∧
    (i ≠ .serialize → t.txLen = s.txLen ∧
      ∀ j, j < s.params.frameMax → Memory.read t.mem (txBase + j) = Memory.read s.mem (txBase + j)) ∧
    (i ≠ .parse → i ≠ .serialize → i ≠ .buildLogoff → i ≠ .buildLogin → i ≠ .buildSubAll →
      (∀ hi lo, i ≠ .buildSubLoco hi lo) → t.frame.len = s.frame.len) ∧
    (i ≠ .parse → i ≠ .buildLogoff → i ≠ .buildLogin → i ≠ .buildSubAll → (∀ hi lo, i ≠ .buildSubLoco hi lo) →
      t.frame.hdr0 = s.frame.hdr0 ∧ t.frame.hdr1 = s.frame.hdr1 ∧ t.frame.xh = s.frame.xh ∧
      t.frame.xhValid = s.frame.xhValid ∧ t.frame.plen = s.frame.plen ∧ t.frame.ck = s.frame.ck ∧
      t.frame.ckValid = s.frame.ckValid) ∧
    (i ≠ .parse → i ≠ .buildSubAll → (∀ hi lo, i ≠ .buildSubLoco hi lo) →
      ∀ j, j < s.params.payMax → Memory.read t.mem (payBase + j) = Memory.read s.mem (payBase + j)) ∧
    (i ≠ .parse → i ≠ .serialize → i ≠ .checksum → t.ckCalc = s.ckCalc) ∧
    (i ≠ .decode → i ≠ .locoStatus → t.status = s.status)) ∧
  ∀ (a : Access) (s : State), s.params.legal = true →
    (access a s).flags = s.flags ∧ (access a s).txLen = s.txLen ∧ (access a s).ckCalc = s.ckCalc ∧
    (access a s).status = s.status ∧
    ∀ j, j < s.params.frameMax → Memory.read (access a s).mem (txBase + j) = Memory.read s.mem (txBase + j)

/-- 10_state.md section 6: the rest of the frame, for every instruction: the parameters, the coming moves and the last
host read are unchanged; a draw is taken only by DECODE and LOCO_STATUS; the only host fault is `UNWRITTEN_READ`; and
every byte of memory outside the instruction's stored bytes reads as before. (The coming moves and the last host read are
the model's own fields, log entry 5, the count of draws is log entry 3, and LOCO_STATUS drawing as DECODE does is log
entry 4.) -/
def Obligations.InstructionFrame : Prop :=
  ∀ (i : Instr) (s t : State), exec i s = .next t →
    t.params = s.params ∧ t.moves = s.moves ∧ t.readData = s.readData ∧
    (i ≠ .decode → i ≠ .locoStatus → t.draws = s.draws) ∧
    (t.fault = s.fault ∨ t.fault = some .unwrittenRead) ∧
    ∀ x, ¬ storesTo i s x → Memory.read t.mem x = Memory.read s.mem x

/-- 60_exceptions.md section 3: an instruction that raises an error other than `UNKNOWN_SPEED_STEP_MODE` has made no write
but `STATUS.ERR`. (The spec says so of the commands; that the wire-class rows raise DECODE's errors is the model's choice,
log entry 4.) -/
def Obligations.ErrorsArePrecise : Prop :=
  ∀ (i : Instr) (s t : State), exec i s = .next t → t.flags.err ≠ .ok → t.flags.err ≠ .unknownSpeedStepMode →
    t.fault = s.fault → t = onlyErr s t.flags.err

/-- 60_exceptions.md section 2, the column "raised by": the codes each instruction can leave. (The wire classes are
DECODE of a frame of that class, log entry 4.) -/
def Obligations.CodesEachInstructionRaises : Prop :=
  ∀ (i : Instr) (s t : State), s.fault = none → exec i s = .next t → t.fault = none →
    match i with
    | .nop => t.flags.err = .ok
    | .parse => t.flags.err = .ok ∨ t.flags.err = .malformedFrame ∨ t.flags.err = .frameTooLong
    | .serialize => t.flags.err = .ok ∨ t.flags.err = .frameTooLong ∨ t.flags.err = .invalidFrame
    | .checksum => t.flags.err = .ok ∨ t.flags.err = .frameTooLong ∨ t.flags.err = .invalidFrame ∨
        t.flags.err = .noChecksum
    | .decode => t.flags.err = .ok ∨ t.flags.err = .frameTooLong ∨ t.flags.err = .invalidFrame ∨
        t.flags.err = .unexpectedFrameType ∨ t.flags.err = .shortStatusPayload ∨ t.flags.err = .unknownSpeedStepMode
    | .locoStatus => t.flags.err = .ok ∨ t.flags.err = .frameTooLong ∨ t.flags.err = .invalidFrame ∨
        t.flags.err = .shortStatusPayload ∨ t.flags.err = .unknownSpeedStepMode
    | .buildLogoff => t.flags.err = .ok
    | .buildLogin => t.flags.err = .ok
    | .buildSubAll => t.flags.err = .ok
    | .buildSubLoco _ _ => t.flags.err = .ok
    | .logoff _ => t.flags.err = .frameTooLong ∨ t.flags.err = .invalidFrame ∨ t.flags.err = .unexpectedFrameType
    | .login _ => t.flags.err = .frameTooLong ∨ t.flags.err = .invalidFrame ∨ t.flags.err = .unexpectedFrameType
    | .subscribeAll => t.flags.err = .frameTooLong ∨ t.flags.err = .invalidFrame ∨
        t.flags.err = .unexpectedFrameType
    | .subscribeOne => t.flags.err = .frameTooLong ∨ t.flags.err = .invalidFrame ∨
        t.flags.err = .unexpectedFrameType

/-- 60_exceptions.md section 2 and 10_state.md section 4: the numbers of the result codes, the modes and the
directions. -/
def Obligations.CodeNumbers : Prop :=
  errByte .ok = 0x00#8 ∧ errByte .malformedFrame = 0x01#8 ∧ errByte .unexpectedFrameType = 0x02#8 ∧
  errByte .unknownSpeedStepMode = 0x03#8 ∧ errByte .invalidFrame = 0x04#8 ∧ errByte .shortStatusPayload = 0x05#8 ∧
  errByte .frameTooLong = 0x06#8 ∧ errByte .noChecksum = 0x07#8 ∧ errByte .badCommand = 0x08#8 ∧
  modeBits .unknown = 0#2 ∧ modeBits .fourteenStep = 1#2 ∧ modeBits .twentyEightStep = 2#2 ∧
  modeBits .hundredTwentySixStep = 3#2 ∧ dirBit .forward = true ∧ dirBit .backward = false

/-! ### Host accesses -/

/-- 20_memory.md section 3: an access of a wrong width, a wrong alignment or to an unmapped offset is the host fault of
its kind, and nothing else changes. -/
def Obligations.UnsoundAccessFaults : Prop :=
  ∀ (s : State) (a : Access),
    ((accessSpan a).2 = 1 → (accessSpan a).1 < 0x1000 → access a s = { s with fault := some .badWidth }) ∧
    ((accessSpan a).2 = 4 → (accessSpan a).1 % 4 ≠ 0 → access a s = { s with fault := some .misaligned }) ∧
    ((accessSpan a).2 = 1 → 0x1000 ≤ (accessSpan a).1 → ¬ windowMapped s.params (accessSpan a).1 →
      access a s = { s with fault := some .unmapped }) ∧
    ((accessSpan a).2 = 4 → (accessSpan a).1 % 4 = 0 →
      (∃ i, i < 4 ∧ ¬ windowMapped s.params ((accessSpan a).1 + i)) →
      s.params.legal = true → access a s = { s with fault := some .unmapped })

/-- R61: a host write to a read-only register or a `TX` byte is `WRITE_RO` and changes no state but `FAULT`. -/
def Obligations.WriteToReadOnlyFaults : Prop :=
  ∀ (s : State) (o : Nat) (v : Word) (b : Byte), s.params.legal = true → s.pending = none →
    (readOnlyRegister o → access (.write32 o v) s = { s with fault := some .writeRo }) ∧
    (txBase ≤ o → o < txBase + s.params.frameMax → access (.write8 o b) s = { s with fault := some .writeRo }) ∧
    (txBase ≤ o → o + 3 < txBase + s.params.frameMax → o % 4 = 0 →
      access (.write32 o v) s = { s with fault := some .writeRo })

/-- 70_reset_and_hazards.md section 3 and 20_memory.md section 3: while a command is pending, an access of a right width
and alignment to mapped bytes is `BUSY_ACCESS` and changes nothing else, unless it is a 4-byte read of `STATUS`,
`PARAM0` or `PARAM1`, which faults nothing. -/
def Obligations.BusyAccessFaults : Prop :=
  ∀ (s : State) (a : Access) (w : Word), s.params.legal = true → s.pending = some w → soundAccess s.params a →
    (¬ allowedWhileBusy a → access a s = { s with fault := some .busyAccess }) ∧
    (allowedWhileBusy a → (access a s).fault = s.fault)

/-- 20_memory.md section 3: a sound access while no command is pending faults nothing, when it is a read of bytes that
hold values or of a register, or a write of a register or buffer that is not read-only. -/
def Obligations.SoundAccessCompletes : Prop :=
  ∀ (s : State) (a : Access), s.params.legal = true → s.pending = none → soundAccess s.params a →
    (match a with
      | .read8 o => (Memory.read s.mem o).isSome = true
      | .read32 o => o < 0x1000 ∨ ∀ i, i < 4 → (Memory.read s.mem (o + i)).isSome = true
      | .write8 o _ => o < txBase ∨ payBase ≤ o
      | .write32 o _ => ¬ readOnlyRegister o ∧ (o < txBase ∨ payBase ≤ o)) →
    (access a s).fault = s.fault

/-- 20_memory.md section 3: a host read of a buffer byte with no value is `UNWRITTEN_READ`, and nothing else changes. -/
def Obligations.HostReadOfUnwrittenByteFaults : Prop :=
  ∀ (s : State) (o : Nat), s.params.legal = true → s.pending = none → 0x1000 ≤ o →
    (windowMapped s.params o → Memory.read s.mem o = none →
      access (.read8 o) s = { s with fault := some .unwrittenRead }) ∧
    (o % 4 = 0 → (∀ i, i < 4 → windowMapped s.params (o + i)) → (∃ i, i < 4 ∧ Memory.read s.mem (o + i) = none) →
      access (.read32 o) s = { s with fault := some .unwrittenRead })

/-- 20_memory.md section 3: a read changes nothing in the block: only the value returned, the number of draws (while
`BUSY` = 1) and a host fault may differ afterwards; and the only access that starts a command is a write to `CMD`. A write
of any other register changes that register alone, register by register; a write of a register stores no buffer byte, and a
write of a buffer byte changes no register. The fields `readData` and `draws` are the model's own (log
entries 3 and 5). -/
def Obligations.OnlyCmdWriteHasSideEffect : Prop :=
  ∀ (s : State) (a : Access),
    ((∀ o v, a ≠ .write8 o v) → (∀ o v, a ≠ .write32 o v) →
      access a s = { s with
        readData := (access a s).readData, draws := (access a s).draws, fault := (access a s).fault } ∧
      (s.pending = none → (access a s).draws = s.draws)) ∧
    ((∀ v, a ≠ .write32 0x000 v) → (access a s).pending = s.pending ∧ (access a s).cmd = s.cmd ∧
      (access a s).flags = s.flags ∧ (access a s).txLen = s.txLen ∧ (access a s).ckCalc = s.ckCalc ∧
      (access a s).status = s.status ∧ (access a s).params = s.params ∧ (access a s).moves = s.moves) ∧
    ((∀ v, a ≠ .write32 0x008 v) → (access a s).rxLen = s.rxLen) ∧
    ((∀ v, a ≠ .write32 0x010 v) → (access a s).frame.len = s.frame.len) ∧
    ((∀ v, a ≠ .write32 0x014 v) → (access a s).frame.hdr0 = s.frame.hdr0 ∧ (access a s).frame.hdr1 = s.frame.hdr1) ∧
    ((∀ v, a ≠ .write32 0x018 v) → (access a s).frame.xh = s.frame.xh ∧ (access a s).frame.xhValid = s.frame.xhValid) ∧
    ((∀ v, a ≠ .write32 0x01C v) → (access a s).frame.plen = s.frame.plen) ∧
    ((∀ v, a ≠ .write32 0x020 v) → (access a s).frame.ck = s.frame.ck ∧ (access a s).frame.ckValid = s.frame.ckValid) ∧
    ((accessSpan a).1 < 0x1000 → (access a s).mem = s.mem)

/-- R57, and R58 and R59 for one byte: a 1-byte read of any buffer byte that holds a value returns it, and a 1-byte
write stores its byte at its offset; a 4-byte read returns the four bytes, low byte first; a 4-byte write stores them so; a
1-byte read of a byte that a 4-byte write stored returns that byte. A read changes nothing but the value returned, a
write nothing but the bytes it stores: every other byte reads as before. -/
def Obligations.BufferAccessesReadAndStore : Prop :=
  ∀ (s : State) (o : Nat), s.params.legal = true → s.pending = none → 0x1000 ≤ o →
    (windowMapped s.params o →
      (∀ b, Memory.read s.mem o = some b →
        access (.read8 o) s = { s with readData := some (BitVec.ofNat 32 b.toNat) }) ∧
      (∀ b : Byte, (o < txBase ∨ payBase ≤ o) →
        ∃ m, storedBytes s.mem m o 1 (fun _ => b) ∧ access (.write8 o b) s = { s with mem := m })) ∧
    (o % 4 = 0 → (∀ i, i < 4 → windowMapped s.params (o + i)) →
      (∀ b : Nat → Byte, holdsBytes s.mem o 4 b →
        access (.read32 o) s = { s with readData := some (BitVec.ofNat 32
          ((b 0).toNat + 0x100 * (b 1).toNat + 0x10000 * (b 2).toNat + 0x1000000 * (b 3).toNat)) }) ∧
      (∀ v : Word, (o < txBase ∨ payBase ≤ o) →
        ∃ m, storedBytes s.mem m o 4 (fun i => BitVec.ofNat 8 (v.toNat / 256 ^ i)) ∧
          access (.write32 o v) s = { s with mem := m } ∧
          ∀ i, i < 4 → (access (.read8 (o + i)) { s with mem := m }).readData =
            some (BitVec.ofNat 32 (v.toNat / 256 ^ i % 256))))

/-- 10_state.md section 4: a host write of `w` to `CMD` stores it and makes it pending, and changes nothing else; a read
of `CMD` then returns it once the command has run. -/
def Obligations.CmdWriteStartsCommand : Prop :=
  ∀ (s : State) (w : Word), s.pending = none →
    access (.write32 0x000 w) s = { s with cmd := w, pending := some w } ∧
    (access (.read32 0x000) s).readData = some s.cmd

/-- R44's `BUSY` and 10_state.md section 4: a read of `STATUS` has bit 31 set exactly while a command is pending; with
none pending the word is the code and the three flags, and the other bits are 0. -/
def Obligations.StatusReadsBusyAndFlags : Prop :=
  ∀ s : State, ∃ v, (access (.read32 0x004) s).readData = some v ∧ (access (.read32 0x004) s).fault = s.fault ∧
    (v.getLsbD 31 = true ↔ s.pending ≠ none) ∧
    (s.pending = none → v.toNat = (errByte s.flags.err).toNat + 0x100 * s.flags.cksumOk.toNat +
      0x200 * s.flags.sValid.toNat + 0x400 * s.flags.fnTrunc.toNat)

/-- R33: what `PARAM0` and `PARAM1` read, at any time, under legal parameters; no step changes them, and reset does not. -/
def Obligations.ParamRegistersReport : Prop :=
  ∀ s : State, s.params.legal = true →
    (∃ v, (access (.read32 0x080) s).readData = some v ∧
      v.toNat = s.params.payMax + 0x10000 * (s.params.payMax + 6)) ∧
    (∃ v, (access (.read32 0x084) s).readData = some v ∧
      v.toNat = s.params.fnExtMax + 0x10000 * (if s.params.addressFormula = .sourceLiteral then 1 else 0) +
        0x20000 * (if s.params.unknownModeSpeed = .draw then 1 else 0)) ∧
    s.resetBlock.params = s.params ∧ ∀ t, step s = .next t → t.params = s.params

/-- 10_state.md section 3 and 20_memory.md section 3: a write to an RW register stores its defined fields, changes
nothing else, and reads back with the zero fields as 0. -/
def Obligations.RegisterWritesReadBack : Prop :=
  ∀ (s : State) (v : Word), s.pending = none →
    (∀ o mask, ((o = 0x008 ∨ o = 0x010 ∨ o = 0x014 ∨ o = 0x01C) ∧ mask = 0x0000FFFF#32) ∨
        ((o = 0x018 ∨ o = 0x020) ∧ mask = 0x000001FF#32) →
      (access (.read32 o) (access (.write32 o v) s)).readData = some (v &&& mask)) ∧
    access (.write32 0x008 v) s = { s with rxLen := BitVec.ofNat 16 v.toNat } ∧
    access (.write32 0x010 v) s = { s with frame := { s.frame with len := BitVec.ofNat 16 v.toNat } } ∧
    access (.write32 0x014 v) s = { s with frame := { s.frame with
      hdr0 := BitVec.ofNat 8 v.toNat, hdr1 := BitVec.ofNat 8 (v.toNat / 0x100) } } ∧
    access (.write32 0x018 v) s = { s with frame := { s.frame with
      xh := BitVec.ofNat 8 v.toNat, xhValid := v.getLsbD 8 } } ∧
    access (.write32 0x01C v) s = { s with frame := { s.frame with plen := BitVec.ofNat 16 v.toNat } } ∧
    access (.write32 0x020 v) s = { s with frame := { s.frame with
      ck := BitVec.ofNat 8 v.toNat, ckValid := v.getLsbD 8 } }

/-- 10_state.md sections 3 and 4: what the read-only result registers and the bitmap words read. -/
def Obligations.ResultRegistersRead : Prop :=
  ∀ s : State, s.pending = none →
    (∃ v, (access (.read32 0x00C) s).readData = some v ∧ v.toNat = s.txLen.toNat) ∧
    (∃ v, (access (.read32 0x024) s).readData = some v ∧ v.toNat = s.ckCalc.toNat) ∧
    (∃ v, (access (.read32 0x030) s).readData = some v ∧ v.toNat = s.status.addr.toNat) ∧
    (∃ v, (access (.read32 0x034) s).readData = some v ∧
      v.toNat = (modeBits s.status.mode).toNat + 0x100 * s.status.sel.toNat) ∧
    (∃ v, (access (.read32 0x038) s).readData = some v ∧ v.toNat = s.status.speed.toNat) ∧
    (∃ v, (access (.read32 0x03C) s).readData = some v ∧ v.toNat = if s.status.dir = .forward then 1 else 0) ∧
    (∃ v, (access (.read32 0x040) s).readData = some v ∧ v.toNat = s.status.fnCnt.toNat) ∧
    ∀ j, j < 256 → ∃ v, (access (.read32 (0x400 + 4 * j)) s).readData = some v ∧
      ∀ i, i < 32 → v.getLsbD i = s.status.fn.getLsbD (32 * j + i)

/-! ### Reset -/

/-- R210: the state after reset. (The default parameters and the model's own fields are log entries 1 and 5.) -/
def Obligations.ResetStateIsAsStated : Prop :=
  State.reset.cmd = 0x00000000#32 ∧ idleStatusWord State.reset.flags = 0x00000000#32 ∧
  busy State.reset = false ∧ State.reset.rxLen = 0#16 ∧ State.reset.txLen = 0#16 ∧ State.reset.frame.len = 0#16 ∧
  State.reset.frame.hdr0 = 0#8 ∧ State.reset.frame.hdr1 = 0#8 ∧ State.reset.frame.xh = 0#8 ∧
  State.reset.frame.xhValid = false ∧ State.reset.frame.plen = 0#16 ∧ State.reset.frame.ck = 0#8 ∧
  State.reset.frame.ckValid = false ∧ State.reset.ckCalc = 0#8 ∧ State.reset.status.addr = 0#14 ∧
  modeBits State.reset.status.mode = 0#2 ∧ State.reset.status.sel = 0#3 ∧ State.reset.status.speed = 0#7 ∧
  dirBit State.reset.status.dir = false ∧ State.reset.status.fnCnt = 0#16 ∧ State.reset.status.fn = 0#8192 ∧
  (∀ o, Memory.read State.reset.mem o = none) ∧ State.reset.pending = none ∧
  (∀ s : State, s.resetBlock.params = s.params ∧ s.resetBlock.fault = s.fault)

/-- R211: a reset discards a pending command without running it, and nothing of the block survives it but the
parameters; the model's record of a fault is kept too (R45). -/
def Obligations.ResetMoveRestoresReset : Prop :=
  ∀ (s : State) (ms : List Move), s.moves = .reset :: ms →
    step s = .next { State.reset with
      params := s.params, fault := s.fault, moves := ms, readData := s.readData, draws := s.draws }

/-- R214: the frame a reset leaves, whatever the parameters and whatever the state before it, and what the commands
then give. -/
def Obligations.CommandsAfterReset : Prop :=
  ∀ s : State,
    (validFrame s.resetBlock ∧ s.resetBlock.frame.hdr0 = 0x00#8 ∧ s.resetBlock.frame.hdr1 = 0x00#8 ∧
      s.resetBlock.frame.xhValid = false ∧ s.resetBlock.frame.plen = 0#16) ∧
    (∃ t, exec .serialize s.resetBlock = .next t ∧
      Memory.readBytes t.mem txBase 4 = some [4#8, 0#8, 0#8, 0#8] ∧
      t.txLen = 4#16 ∧ t.frame.len = 4#16 ∧ t.flags.err = .ok) ∧
    exec .checksum s.resetBlock = .next (onlyErr s.resetBlock .noChecksum) ∧
    exec .decode s.resetBlock = .next (onlyErr s.resetBlock .unexpectedFrameType) ∧
    exec .parse s.resetBlock = .next (onlyErr s.resetBlock .malformedFrame) ∧
    ∀ i, (i = .nop ∨ i = .buildLogoff ∨ i = .buildLogin ∨ i = .buildSubAll ∨ ∃ hi lo, i = .buildSubLoco hi lo) →
      ∃ t, exec i s.resetBlock = .next t ∧ t.flags.err = .ok

/-! ### Invariants -/

/-- 10_state.md section 5 and 20_memory.md section 4: under legal parameters every step keeps the buffers' canonical
form, with every byte that holds a value at a mapped buffer offset. -/
def Obligations.StepKeepsMemory : Prop :=
  ∀ s t : State, s.params.legal = true → s.memInv → step s = .next t → t.memInv

/-- 10_state.md section 5: every step keeps it that a pending command is the word `CMD` reads back. -/
def Obligations.StepKeepsCommand : Prop :=
  ∀ s t : State, s.commandInv → step s = .next t → t.commandInv

/-- 10_state.md section 4: every step keeps it that no function bit at or above `S_FNCNT` is set, and that the count is
0 or `5 + 8k` with `k <= FN_EXT_MAX`. -/
def Obligations.StepKeepsFunctionPrefix : Prop :=
  ∀ s t : State, s.params.legal = true → s.fnPrefixInv → s.fnCountInv → step s = .next t →
    t.fnPrefixInv ∧ t.fnCountInv

/-- 10_state.md section 4 and 42_status_decoder.md section 4: every step keeps it that the mode is the one the raw
selector gives, and the speed is in its mode's range. -/
def Obligations.StepKeepsModeAndSpeed : Prop :=
  ∀ s t : State, s.modeInv → s.speedInv → step s = .next t → t.modeInv ∧ t.speedInv

/-- 70_reset_and_hazards.md section 1: every step keeps it that while `S_VALID` = 0 the status registers are as reset
leaves them. -/
def Obligations.StepKeepsNoRecord : Prop :=
  ∀ s t : State, s.noRecordInv → step s = .next t → t.noRecordInv

/-- 10_state.md section 4 and 40_codec.md section 4: under legal parameters every step keeps it that `TX` holds a whole
datagram of `TX_LEN` bytes whose length field is `TX_LEN`. -/
def Obligations.StepKeepsTransmitBuffer : Prop :=
  ∀ s t : State, s.params.legal = true → s.txInv → step s = .next t → t.txInv

/-- Every invariant above holds at reset, and the default parameters are legal. -/
def Obligations.InvariantsHoldAtReset : Prop :=
  State.reset.params.legal = true ∧ State.reset.memInv ∧ State.reset.commandInv ∧ State.reset.fnPrefixInv ∧
  State.reset.fnCountInv ∧ State.reset.modeInv ∧ State.reset.speedInv ∧ State.reset.noRecordInv ∧
  State.reset.txInv ∧ State.reset.goodEnd
end

