-- ==== Sys2Proof/Laws/Memory.lean ====
section
/-! SUPPORT. The laws of the buffers' memory: read after write, and that every write keeps the canonical form. -/

namespace Sys2Proof.Machine

/-! ### One byte -/

@[simp] theorem Memory.read_nil (o : Nat) : Memory.read [] o = none := rfl

/-- A read after a write: the byte written at its offset, the old byte elsewhere. -/
theorem Memory.read_write (m : Memory) (o x : Nat) (v : Byte) :
    Memory.read (Memory.write m o v) x = if x = o then some v else Memory.read m x := by
  induction m with
  | nil => simp only [Memory.write, Memory.read, eq_comm]
  | cons c m ih =>
    obtain ⟨a, b⟩ := c
    simp only [Memory.write]
    split
    · simp only [Memory.read, eq_comm]
    · split
      · next h =>
        subst h
        by_cases hx : x = o
        · simp [Memory.read, hx]
        · simp [Memory.read, hx, Ne.symm hx]
      · next h =>
        simp only [Memory.read, ih]
        by_cases hx : x = o
        · subst hx; simp [Ne.symm h]
        · simp [hx]

@[simp] theorem Memory.read_write_same (m : Memory) (o : Nat) (v : Byte) :
    Memory.read (Memory.write m o v) o = some v := by simp [Memory.read_write]

theorem Memory.read_write_other (m : Memory) {o x : Nat} (v : Byte) (h : x ≠ o) :
    Memory.read (Memory.write m o v) x = Memory.read m x := by simp [Memory.read_write, h]

/-! ### The canonical form -/

/-- The canonical form, as offsets strictly rising along the list. -/
theorem Memory.wf_iff_pairwise (m : Memory) : Memory.wf m = true ↔ (m.map Prod.fst).Pairwise (· < ·) := by
  induction m with
  | nil => simp [Memory.wf]
  | cons c m ih =>
    obtain ⟨a, v⟩ := c
    cases m with
    | nil => simp [Memory.wf]
    | cons d m =>
      obtain ⟨b, w⟩ := d
      simp only [Memory.wf, Bool.and_eq_true, decide_eq_true_eq, ih, List.map_cons, List.pairwise_cons,
        List.mem_cons, forall_eq_or_imp]
      exact ⟨fun ⟨h, hr, hp⟩ => ⟨⟨h, fun x hx => h.trans (hr x hx)⟩, hr, hp⟩, fun ⟨⟨h, _⟩, hr, hp⟩ => ⟨h, hr, hp⟩⟩

/-- The offsets listed after a write: the written one and the old ones. -/
theorem Memory.mem_keys_write (m : Memory) (o x : Nat) (v : Byte) :
    x ∈ (Memory.write m o v).map Prod.fst ↔ x = o ∨ x ∈ m.map Prod.fst := by
  induction m with
  | nil => simp [Memory.write]
  | cons c m ih =>
    obtain ⟨a, b⟩ := c
    simp only [Memory.write]
    split
    · simp
    · split
      · next h => subst h; simp
      · simp only [List.map_cons, List.mem_cons, ih]; tauto

/-- A write keeps the canonical form. -/
theorem Memory.wf_write {m : Memory} (o : Nat) (v : Byte) (h : Memory.wf m = true) :
    Memory.wf (Memory.write m o v) = true := by
  rw [Memory.wf_iff_pairwise] at *
  induction m with
  | nil => simp [Memory.write]
  | cons c m ih =>
    obtain ⟨a, b⟩ := c
    simp only [List.map_cons, List.pairwise_cons] at h
    obtain ⟨ha, hm⟩ := h
    simp only [Memory.write]
    split
    · next hoa =>
      simp only [List.map_cons, List.pairwise_cons, List.mem_cons, forall_eq_or_imp]
      exact ⟨⟨hoa, fun x hx => hoa.trans (ha x hx)⟩, ha, hm⟩
    · split
      · next hoa => subst hoa; exact List.pairwise_cons.2 ⟨ha, hm⟩
      · next h1 h2 =>
        refine List.pairwise_cons.2 ⟨fun x hx => ?_, ih hm⟩
        rcases (Memory.mem_keys_write m o x v).1 hx with rfl | hx
        · omega
        · exact ha x hx

/-! ### Runs of bytes -/

/-- A read after a run of writes: the byte written inside the run, the old byte outside it. -/
theorem Memory.read_writeBytes (m : Memory) (o x : Nat) (bs : List Byte) :
    Memory.read (Memory.writeBytes m o bs) x =
      if o ≤ x ∧ x < o + bs.length then bs[x - o]? else Memory.read m x := by
  induction bs generalizing m o with
  | nil => simp [Memory.writeBytes]
  | cons b bs ih =>
    simp only [Memory.writeBytes, ih, Memory.read_write, List.length_cons]
    by_cases hx : x = o
    · subst hx; simp
    · by_cases h : o + 1 ≤ x ∧ x < o + 1 + bs.length
      · have h' : o ≤ x ∧ x < o + (bs.length + 1) := by omega
        simp only [h, h', if_true, true_and]
        rw [show x - o = (x - (o + 1)) + 1 by omega, List.getElem?_cons_succ]
      · have h' : ¬ (o ≤ x ∧ x < o + (bs.length + 1)) := by omega
        rw [if_neg h, if_neg h', if_neg hx]

theorem Memory.read_writeBytes_outside (m : Memory) {o x : Nat} {bs : List Byte}
    (h : ¬ (o ≤ x ∧ x < o + bs.length)) : Memory.read (Memory.writeBytes m o bs) x = Memory.read m x := by
  rw [Memory.read_writeBytes, if_neg h]

/-- A run of writes keeps the canonical form. -/
theorem Memory.wf_writeBytes {m : Memory} (o : Nat) (bs : List Byte) (h : Memory.wf m = true) :
    Memory.wf (Memory.writeBytes m o bs) = true := by
  induction bs generalizing m o with
  | nil => exact h
  | cons b bs ih => exact ih (o + 1) (Memory.wf_write o b h)

/-- A run read back: the list has its length and holds each offset's byte. -/
theorem Memory.readBytes_eq_some {m : Memory} {o n : Nat} {bs : List Byte} :
    Memory.readBytes m o n = some bs ↔ bs.length = n ∧ ∀ i, i < n → Memory.read m (o + i) = bs[i]? := by
  induction n generalizing o bs with
  | zero => cases bs <;> simp [Memory.readBytes]
  | succ n ih =>
    simp only [Memory.readBytes]
    constructor
    · intro h
      split at h
      · next b bs' hb hbs =>
        obtain ⟨hl, hr⟩ := ih.1 hbs
        obtain rfl := Option.some.inj h
        refine ⟨by simp [hl], fun i hi => ?_⟩
        cases i with
        | zero => simpa using hb
        | succ i => simpa [Nat.add_assoc, Nat.add_comm 1 i] using hr i (by omega)
      · cases h
    · rintro ⟨hl, hr⟩
      cases bs with
      | nil => simp at hl
      | cons b bs =>
        have h0 := hr 0 (by omega)
        simp only [Nat.add_zero, List.getElem?_cons_zero] at h0
        have h1 : Memory.readBytes m (o + 1) n = some bs :=
          ih.2 ⟨by simpa using hl, fun i hi => by
            simpa [Nat.add_assoc, Nat.add_comm 1 i] using hr (i + 1) (by omega)⟩
        simp [h0, h1]

/-- A run has a byte with no value exactly when reading it gives none. -/
theorem Memory.readBytes_eq_none {m : Memory} {o n : Nat} :
    Memory.readBytes m o n = none ↔ ∃ i, i < n ∧ Memory.read m (o + i) = none := by
  induction n generalizing o with
  | zero => simp [Memory.readBytes]
  | succ n ih =>
    simp only [Memory.readBytes]
    constructor
    · intro h
      cases hb : Memory.read m o with
      | none => exact ⟨0, by omega, by simpa using hb⟩
      | some b =>
        cases hbs : Memory.readBytes m (o + 1) n with
        | some bs => simp [hb, hbs] at h
        | none =>
          obtain ⟨i, hi, hr⟩ := ih.1 hbs
          exact ⟨i + 1, by omega, by simpa [Nat.add_assoc, Nat.add_comm 1 i] using hr⟩
    · rintro ⟨i, hi, hr⟩
      cases i with
      | zero => simp only [Nat.add_zero] at hr; simp [hr]
      | succ i =>
        have : Memory.readBytes m (o + 1) n = none :=
          ih.2 ⟨i, by omega, by simpa [Nat.add_assoc, Nat.add_comm 1 i] using hr⟩
        simp [this]

/-- Reading a run whose bytes are given by a function of the index. -/
theorem Memory.readBytes_of_read {m : Memory} {o n : Nat} {b : Nat → Byte}
    (h : ∀ i, i < n → Memory.read m (o + i) = some (b i)) :
    Memory.readBytes m o n = some ((List.range n).map b) :=
  Memory.readBytes_eq_some.2 ⟨by simp, fun i hi => by simp [h i hi, hi]⟩

theorem Memory.wf_reset : Memory.wf State.reset.mem = true := rfl

end Sys2Proof.Machine
end

