-- ==== Sys2Proof/Laws/State.lean ====
section
/-! SUPPORT. What each named update leaves in each field of the state: one lemma per field per update, true by rfl. -/

namespace Sys2Proof.Machine

variable (s : State)

/-! ### setErr -/

@[simp] theorem State.setErr_cmd (c : ErrCode) : (s.setErr c).cmd = s.cmd := rfl
@[simp] theorem State.setErr_pending (c : ErrCode) : (s.setErr c).pending = s.pending := rfl
@[simp] theorem State.setErr_flags (c : ErrCode) : (s.setErr c).flags = { s.flags with err := c } := rfl
@[simp] theorem State.setErr_frame (c : ErrCode) : (s.setErr c).frame = s.frame := rfl
@[simp] theorem State.setErr_rxLen (c : ErrCode) : (s.setErr c).rxLen = s.rxLen := rfl
@[simp] theorem State.setErr_txLen (c : ErrCode) : (s.setErr c).txLen = s.txLen := rfl
@[simp] theorem State.setErr_ckCalc (c : ErrCode) : (s.setErr c).ckCalc = s.ckCalc := rfl
@[simp] theorem State.setErr_status (c : ErrCode) : (s.setErr c).status = s.status := rfl
@[simp] theorem State.setErr_mem (c : ErrCode) : (s.setErr c).mem = s.mem := rfl
@[simp] theorem State.setErr_params (c : ErrCode) : (s.setErr c).params = s.params := rfl
@[simp] theorem State.setErr_fault (c : ErrCode) : (s.setErr c).fault = s.fault := rfl
@[simp] theorem State.setErr_moves (c : ErrCode) : (s.setErr c).moves = s.moves := rfl
@[simp] theorem State.setErr_readData (c : ErrCode) : (s.setErr c).readData = s.readData := rfl
@[simp] theorem State.setErr_draws (c : ErrCode) : (s.setErr c).draws = s.draws := rfl

/-! ### setFault -/

@[simp] theorem State.setFault_cmd (k : HostFault) : (s.setFault k).cmd = s.cmd := rfl
@[simp] theorem State.setFault_pending (k : HostFault) : (s.setFault k).pending = s.pending := rfl
@[simp] theorem State.setFault_flags (k : HostFault) : (s.setFault k).flags = s.flags := rfl
@[simp] theorem State.setFault_frame (k : HostFault) : (s.setFault k).frame = s.frame := rfl
@[simp] theorem State.setFault_rxLen (k : HostFault) : (s.setFault k).rxLen = s.rxLen := rfl
@[simp] theorem State.setFault_txLen (k : HostFault) : (s.setFault k).txLen = s.txLen := rfl
@[simp] theorem State.setFault_ckCalc (k : HostFault) : (s.setFault k).ckCalc = s.ckCalc := rfl
@[simp] theorem State.setFault_status (k : HostFault) : (s.setFault k).status = s.status := rfl
@[simp] theorem State.setFault_mem (k : HostFault) : (s.setFault k).mem = s.mem := rfl
@[simp] theorem State.setFault_params (k : HostFault) : (s.setFault k).params = s.params := rfl
@[simp] theorem State.setFault_fault (k : HostFault) : (s.setFault k).fault = some k := rfl
@[simp] theorem State.setFault_moves (k : HostFault) : (s.setFault k).moves = s.moves := rfl
@[simp] theorem State.setFault_readData (k : HostFault) : (s.setFault k).readData = s.readData := rfl
@[simp] theorem State.setFault_draws (k : HostFault) : (s.setFault k).draws = s.draws := rfl

/-! ### setMem -/

@[simp] theorem State.setMem_cmd (m : Memory) : (s.setMem m).cmd = s.cmd := rfl
@[simp] theorem State.setMem_pending (m : Memory) : (s.setMem m).pending = s.pending := rfl
@[simp] theorem State.setMem_flags (m : Memory) : (s.setMem m).flags = s.flags := rfl
@[simp] theorem State.setMem_frame (m : Memory) : (s.setMem m).frame = s.frame := rfl
@[simp] theorem State.setMem_rxLen (m : Memory) : (s.setMem m).rxLen = s.rxLen := rfl
@[simp] theorem State.setMem_txLen (m : Memory) : (s.setMem m).txLen = s.txLen := rfl
@[simp] theorem State.setMem_ckCalc (m : Memory) : (s.setMem m).ckCalc = s.ckCalc := rfl
@[simp] theorem State.setMem_status (m : Memory) : (s.setMem m).status = s.status := rfl
@[simp] theorem State.setMem_mem (m : Memory) : (s.setMem m).mem = m := rfl
@[simp] theorem State.setMem_params (m : Memory) : (s.setMem m).params = s.params := rfl
@[simp] theorem State.setMem_fault (m : Memory) : (s.setMem m).fault = s.fault := rfl
@[simp] theorem State.setMem_moves (m : Memory) : (s.setMem m).moves = s.moves := rfl
@[simp] theorem State.setMem_readData (m : Memory) : (s.setMem m).readData = s.readData := rfl
@[simp] theorem State.setMem_draws (m : Memory) : (s.setMem m).draws = s.draws := rfl

/-! ### setFrame -/

@[simp] theorem State.setFrame_cmd (f : Frame) : (s.setFrame f).cmd = s.cmd := rfl
@[simp] theorem State.setFrame_pending (f : Frame) : (s.setFrame f).pending = s.pending := rfl
@[simp] theorem State.setFrame_flags (f : Frame) : (s.setFrame f).flags = s.flags := rfl
@[simp] theorem State.setFrame_frame (f : Frame) : (s.setFrame f).frame = f := rfl
@[simp] theorem State.setFrame_rxLen (f : Frame) : (s.setFrame f).rxLen = s.rxLen := rfl
@[simp] theorem State.setFrame_txLen (f : Frame) : (s.setFrame f).txLen = s.txLen := rfl
@[simp] theorem State.setFrame_ckCalc (f : Frame) : (s.setFrame f).ckCalc = s.ckCalc := rfl
@[simp] theorem State.setFrame_status (f : Frame) : (s.setFrame f).status = s.status := rfl
@[simp] theorem State.setFrame_mem (f : Frame) : (s.setFrame f).mem = s.mem := rfl
@[simp] theorem State.setFrame_params (f : Frame) : (s.setFrame f).params = s.params := rfl
@[simp] theorem State.setFrame_fault (f : Frame) : (s.setFrame f).fault = s.fault := rfl
@[simp] theorem State.setFrame_moves (f : Frame) : (s.setFrame f).moves = s.moves := rfl
@[simp] theorem State.setFrame_readData (f : Frame) : (s.setFrame f).readData = s.readData := rfl
@[simp] theorem State.setFrame_draws (f : Frame) : (s.setFrame f).draws = s.draws := rfl

/-! ### setCkCalc -/

@[simp] theorem State.setCkCalc_cmd (c : Byte) : (s.setCkCalc c).cmd = s.cmd := rfl
@[simp] theorem State.setCkCalc_pending (c : Byte) : (s.setCkCalc c).pending = s.pending := rfl
@[simp] theorem State.setCkCalc_flags (c : Byte) : (s.setCkCalc c).flags = s.flags := rfl
@[simp] theorem State.setCkCalc_frame (c : Byte) : (s.setCkCalc c).frame = s.frame := rfl
@[simp] theorem State.setCkCalc_rxLen (c : Byte) : (s.setCkCalc c).rxLen = s.rxLen := rfl
@[simp] theorem State.setCkCalc_txLen (c : Byte) : (s.setCkCalc c).txLen = s.txLen := rfl
@[simp] theorem State.setCkCalc_ckCalc (c : Byte) : (s.setCkCalc c).ckCalc = c := rfl
@[simp] theorem State.setCkCalc_status (c : Byte) : (s.setCkCalc c).status = s.status := rfl
@[simp] theorem State.setCkCalc_mem (c : Byte) : (s.setCkCalc c).mem = s.mem := rfl
@[simp] theorem State.setCkCalc_params (c : Byte) : (s.setCkCalc c).params = s.params := rfl
@[simp] theorem State.setCkCalc_fault (c : Byte) : (s.setCkCalc c).fault = s.fault := rfl
@[simp] theorem State.setCkCalc_moves (c : Byte) : (s.setCkCalc c).moves = s.moves := rfl
@[simp] theorem State.setCkCalc_readData (c : Byte) : (s.setCkCalc c).readData = s.readData := rfl
@[simp] theorem State.setCkCalc_draws (c : Byte) : (s.setCkCalc c).draws = s.draws := rfl

/-! ### setCksumOk -/

@[simp] theorem State.setCksumOk_cmd (b : Bool) : (s.setCksumOk b).cmd = s.cmd := rfl
@[simp] theorem State.setCksumOk_pending (b : Bool) : (s.setCksumOk b).pending = s.pending := rfl
@[simp] theorem State.setCksumOk_flags (b : Bool) : (s.setCksumOk b).flags = { s.flags with cksumOk := b } := rfl
@[simp] theorem State.setCksumOk_frame (b : Bool) : (s.setCksumOk b).frame = s.frame := rfl
@[simp] theorem State.setCksumOk_rxLen (b : Bool) : (s.setCksumOk b).rxLen = s.rxLen := rfl
@[simp] theorem State.setCksumOk_txLen (b : Bool) : (s.setCksumOk b).txLen = s.txLen := rfl
@[simp] theorem State.setCksumOk_ckCalc (b : Bool) : (s.setCksumOk b).ckCalc = s.ckCalc := rfl
@[simp] theorem State.setCksumOk_status (b : Bool) : (s.setCksumOk b).status = s.status := rfl
@[simp] theorem State.setCksumOk_mem (b : Bool) : (s.setCksumOk b).mem = s.mem := rfl
@[simp] theorem State.setCksumOk_params (b : Bool) : (s.setCksumOk b).params = s.params := rfl
@[simp] theorem State.setCksumOk_fault (b : Bool) : (s.setCksumOk b).fault = s.fault := rfl
@[simp] theorem State.setCksumOk_moves (b : Bool) : (s.setCksumOk b).moves = s.moves := rfl
@[simp] theorem State.setCksumOk_readData (b : Bool) : (s.setCksumOk b).readData = s.readData := rfl
@[simp] theorem State.setCksumOk_draws (b : Bool) : (s.setCksumOk b).draws = s.draws := rfl

/-! ### setRxLen -/

@[simp] theorem State.setRxLen_cmd (n : Half) : (s.setRxLen n).cmd = s.cmd := rfl
@[simp] theorem State.setRxLen_pending (n : Half) : (s.setRxLen n).pending = s.pending := rfl
@[simp] theorem State.setRxLen_flags (n : Half) : (s.setRxLen n).flags = s.flags := rfl
@[simp] theorem State.setRxLen_frame (n : Half) : (s.setRxLen n).frame = s.frame := rfl
@[simp] theorem State.setRxLen_rxLen (n : Half) : (s.setRxLen n).rxLen = n := rfl
@[simp] theorem State.setRxLen_txLen (n : Half) : (s.setRxLen n).txLen = s.txLen := rfl
@[simp] theorem State.setRxLen_ckCalc (n : Half) : (s.setRxLen n).ckCalc = s.ckCalc := rfl
@[simp] theorem State.setRxLen_status (n : Half) : (s.setRxLen n).status = s.status := rfl
@[simp] theorem State.setRxLen_mem (n : Half) : (s.setRxLen n).mem = s.mem := rfl
@[simp] theorem State.setRxLen_params (n : Half) : (s.setRxLen n).params = s.params := rfl
@[simp] theorem State.setRxLen_fault (n : Half) : (s.setRxLen n).fault = s.fault := rfl
@[simp] theorem State.setRxLen_moves (n : Half) : (s.setRxLen n).moves = s.moves := rfl
@[simp] theorem State.setRxLen_readData (n : Half) : (s.setRxLen n).readData = s.readData := rfl
@[simp] theorem State.setRxLen_draws (n : Half) : (s.setRxLen n).draws = s.draws := rfl

/-! ### setTxLen -/

@[simp] theorem State.setTxLen_cmd (n : Half) : (s.setTxLen n).cmd = s.cmd := rfl
@[simp] theorem State.setTxLen_pending (n : Half) : (s.setTxLen n).pending = s.pending := rfl
@[simp] theorem State.setTxLen_flags (n : Half) : (s.setTxLen n).flags = s.flags := rfl
@[simp] theorem State.setTxLen_frame (n : Half) : (s.setTxLen n).frame = s.frame := rfl
@[simp] theorem State.setTxLen_rxLen (n : Half) : (s.setTxLen n).rxLen = s.rxLen := rfl
@[simp] theorem State.setTxLen_txLen (n : Half) : (s.setTxLen n).txLen = n := rfl
@[simp] theorem State.setTxLen_ckCalc (n : Half) : (s.setTxLen n).ckCalc = s.ckCalc := rfl
@[simp] theorem State.setTxLen_status (n : Half) : (s.setTxLen n).status = s.status := rfl
@[simp] theorem State.setTxLen_mem (n : Half) : (s.setTxLen n).mem = s.mem := rfl
@[simp] theorem State.setTxLen_params (n : Half) : (s.setTxLen n).params = s.params := rfl
@[simp] theorem State.setTxLen_fault (n : Half) : (s.setTxLen n).fault = s.fault := rfl
@[simp] theorem State.setTxLen_moves (n : Half) : (s.setTxLen n).moves = s.moves := rfl
@[simp] theorem State.setTxLen_readData (n : Half) : (s.setTxLen n).readData = s.readData := rfl
@[simp] theorem State.setTxLen_draws (n : Half) : (s.setTxLen n).draws = s.draws := rfl

/-! ### setStatus -/

@[simp] theorem State.setStatus_cmd (r : StatusRecord) (b : Bool) : (s.setStatus r b).cmd = s.cmd := rfl
@[simp] theorem State.setStatus_pending (r : StatusRecord) (b : Bool) : (s.setStatus r b).pending = s.pending := rfl
@[simp] theorem State.setStatus_flags (r : StatusRecord) (b : Bool) : (s.setStatus r b).flags = { s.flags with fnTrunc := b, sValid := true } := rfl
@[simp] theorem State.setStatus_frame (r : StatusRecord) (b : Bool) : (s.setStatus r b).frame = s.frame := rfl
@[simp] theorem State.setStatus_rxLen (r : StatusRecord) (b : Bool) : (s.setStatus r b).rxLen = s.rxLen := rfl
@[simp] theorem State.setStatus_txLen (r : StatusRecord) (b : Bool) : (s.setStatus r b).txLen = s.txLen := rfl
@[simp] theorem State.setStatus_ckCalc (r : StatusRecord) (b : Bool) : (s.setStatus r b).ckCalc = s.ckCalc := rfl
@[simp] theorem State.setStatus_status (r : StatusRecord) (b : Bool) : (s.setStatus r b).status = r := rfl
@[simp] theorem State.setStatus_mem (r : StatusRecord) (b : Bool) : (s.setStatus r b).mem = s.mem := rfl
@[simp] theorem State.setStatus_params (r : StatusRecord) (b : Bool) : (s.setStatus r b).params = s.params := rfl
@[simp] theorem State.setStatus_fault (r : StatusRecord) (b : Bool) : (s.setStatus r b).fault = s.fault := rfl
@[simp] theorem State.setStatus_moves (r : StatusRecord) (b : Bool) : (s.setStatus r b).moves = s.moves := rfl
@[simp] theorem State.setStatus_readData (r : StatusRecord) (b : Bool) : (s.setStatus r b).readData = s.readData := rfl
@[simp] theorem State.setStatus_draws (r : StatusRecord) (b : Bool) : (s.setStatus r b).draws = s.draws := rfl

/-! ### countDraw -/

@[simp] theorem State.countDraw_cmd : (s.countDraw).cmd = s.cmd := rfl
@[simp] theorem State.countDraw_pending : (s.countDraw).pending = s.pending := rfl
@[simp] theorem State.countDraw_flags : (s.countDraw).flags = s.flags := rfl
@[simp] theorem State.countDraw_frame : (s.countDraw).frame = s.frame := rfl
@[simp] theorem State.countDraw_rxLen : (s.countDraw).rxLen = s.rxLen := rfl
@[simp] theorem State.countDraw_txLen : (s.countDraw).txLen = s.txLen := rfl
@[simp] theorem State.countDraw_ckCalc : (s.countDraw).ckCalc = s.ckCalc := rfl
@[simp] theorem State.countDraw_status : (s.countDraw).status = s.status := rfl
@[simp] theorem State.countDraw_mem : (s.countDraw).mem = s.mem := rfl
@[simp] theorem State.countDraw_params : (s.countDraw).params = s.params := rfl
@[simp] theorem State.countDraw_fault : (s.countDraw).fault = s.fault := rfl
@[simp] theorem State.countDraw_moves : (s.countDraw).moves = s.moves := rfl
@[simp] theorem State.countDraw_readData : (s.countDraw).readData = s.readData := rfl
@[simp] theorem State.countDraw_draws : (s.countDraw).draws = s.draws + 1 := rfl

/-! ### setCommand -/

@[simp] theorem State.setCommand_cmd (w : Word) : (s.setCommand w).cmd = w := rfl
@[simp] theorem State.setCommand_pending (w : Word) : (s.setCommand w).pending = some w := rfl
@[simp] theorem State.setCommand_flags (w : Word) : (s.setCommand w).flags = s.flags := rfl
@[simp] theorem State.setCommand_frame (w : Word) : (s.setCommand w).frame = s.frame := rfl
@[simp] theorem State.setCommand_rxLen (w : Word) : (s.setCommand w).rxLen = s.rxLen := rfl
@[simp] theorem State.setCommand_txLen (w : Word) : (s.setCommand w).txLen = s.txLen := rfl
@[simp] theorem State.setCommand_ckCalc (w : Word) : (s.setCommand w).ckCalc = s.ckCalc := rfl
@[simp] theorem State.setCommand_status (w : Word) : (s.setCommand w).status = s.status := rfl
@[simp] theorem State.setCommand_mem (w : Word) : (s.setCommand w).mem = s.mem := rfl
@[simp] theorem State.setCommand_params (w : Word) : (s.setCommand w).params = s.params := rfl
@[simp] theorem State.setCommand_fault (w : Word) : (s.setCommand w).fault = s.fault := rfl
@[simp] theorem State.setCommand_moves (w : Word) : (s.setCommand w).moves = s.moves := rfl
@[simp] theorem State.setCommand_readData (w : Word) : (s.setCommand w).readData = s.readData := rfl
@[simp] theorem State.setCommand_draws (w : Word) : (s.setCommand w).draws = s.draws := rfl

/-! ### clearPending -/

@[simp] theorem State.clearPending_cmd : (s.clearPending).cmd = s.cmd := rfl
@[simp] theorem State.clearPending_pending : (s.clearPending).pending = none := rfl
@[simp] theorem State.clearPending_flags : (s.clearPending).flags = s.flags := rfl
@[simp] theorem State.clearPending_frame : (s.clearPending).frame = s.frame := rfl
@[simp] theorem State.clearPending_rxLen : (s.clearPending).rxLen = s.rxLen := rfl
@[simp] theorem State.clearPending_txLen : (s.clearPending).txLen = s.txLen := rfl
@[simp] theorem State.clearPending_ckCalc : (s.clearPending).ckCalc = s.ckCalc := rfl
@[simp] theorem State.clearPending_status : (s.clearPending).status = s.status := rfl
@[simp] theorem State.clearPending_mem : (s.clearPending).mem = s.mem := rfl
@[simp] theorem State.clearPending_params : (s.clearPending).params = s.params := rfl
@[simp] theorem State.clearPending_fault : (s.clearPending).fault = s.fault := rfl
@[simp] theorem State.clearPending_moves : (s.clearPending).moves = s.moves := rfl
@[simp] theorem State.clearPending_readData : (s.clearPending).readData = s.readData := rfl
@[simp] theorem State.clearPending_draws : (s.clearPending).draws = s.draws := rfl

/-! ### setReadData -/

@[simp] theorem State.setReadData_cmd (v : Word) : (s.setReadData v).cmd = s.cmd := rfl
@[simp] theorem State.setReadData_pending (v : Word) : (s.setReadData v).pending = s.pending := rfl
@[simp] theorem State.setReadData_flags (v : Word) : (s.setReadData v).flags = s.flags := rfl
@[simp] theorem State.setReadData_frame (v : Word) : (s.setReadData v).frame = s.frame := rfl
@[simp] theorem State.setReadData_rxLen (v : Word) : (s.setReadData v).rxLen = s.rxLen := rfl
@[simp] theorem State.setReadData_txLen (v : Word) : (s.setReadData v).txLen = s.txLen := rfl
@[simp] theorem State.setReadData_ckCalc (v : Word) : (s.setReadData v).ckCalc = s.ckCalc := rfl
@[simp] theorem State.setReadData_status (v : Word) : (s.setReadData v).status = s.status := rfl
@[simp] theorem State.setReadData_mem (v : Word) : (s.setReadData v).mem = s.mem := rfl
@[simp] theorem State.setReadData_params (v : Word) : (s.setReadData v).params = s.params := rfl
@[simp] theorem State.setReadData_fault (v : Word) : (s.setReadData v).fault = s.fault := rfl
@[simp] theorem State.setReadData_moves (v : Word) : (s.setReadData v).moves = s.moves := rfl
@[simp] theorem State.setReadData_readData (v : Word) : (s.setReadData v).readData = some v := rfl
@[simp] theorem State.setReadData_draws (v : Word) : (s.setReadData v).draws = s.draws := rfl

/-! ### setMoves -/

@[simp] theorem State.setMoves_cmd (ms : List Move) : (s.setMoves ms).cmd = s.cmd := rfl
@[simp] theorem State.setMoves_pending (ms : List Move) : (s.setMoves ms).pending = s.pending := rfl
@[simp] theorem State.setMoves_flags (ms : List Move) : (s.setMoves ms).flags = s.flags := rfl
@[simp] theorem State.setMoves_frame (ms : List Move) : (s.setMoves ms).frame = s.frame := rfl
@[simp] theorem State.setMoves_rxLen (ms : List Move) : (s.setMoves ms).rxLen = s.rxLen := rfl
@[simp] theorem State.setMoves_txLen (ms : List Move) : (s.setMoves ms).txLen = s.txLen := rfl
@[simp] theorem State.setMoves_ckCalc (ms : List Move) : (s.setMoves ms).ckCalc = s.ckCalc := rfl
@[simp] theorem State.setMoves_status (ms : List Move) : (s.setMoves ms).status = s.status := rfl
@[simp] theorem State.setMoves_mem (ms : List Move) : (s.setMoves ms).mem = s.mem := rfl
@[simp] theorem State.setMoves_params (ms : List Move) : (s.setMoves ms).params = s.params := rfl
@[simp] theorem State.setMoves_fault (ms : List Move) : (s.setMoves ms).fault = s.fault := rfl
@[simp] theorem State.setMoves_moves (ms : List Move) : (s.setMoves ms).moves = ms := rfl
@[simp] theorem State.setMoves_readData (ms : List Move) : (s.setMoves ms).readData = s.readData := rfl
@[simp] theorem State.setMoves_draws (ms : List Move) : (s.setMoves ms).draws = s.draws := rfl

/-! ### resetBlock -/

@[simp] theorem State.resetBlock_cmd : s.resetBlock.cmd = State.reset.cmd := rfl
@[simp] theorem State.resetBlock_pending : s.resetBlock.pending = State.reset.pending := rfl
@[simp] theorem State.resetBlock_flags : s.resetBlock.flags = State.reset.flags := rfl
@[simp] theorem State.resetBlock_frame : s.resetBlock.frame = State.reset.frame := rfl
@[simp] theorem State.resetBlock_rxLen : s.resetBlock.rxLen = State.reset.rxLen := rfl
@[simp] theorem State.resetBlock_txLen : s.resetBlock.txLen = State.reset.txLen := rfl
@[simp] theorem State.resetBlock_ckCalc : s.resetBlock.ckCalc = State.reset.ckCalc := rfl
@[simp] theorem State.resetBlock_status : s.resetBlock.status = State.reset.status := rfl
@[simp] theorem State.resetBlock_mem : s.resetBlock.mem = State.reset.mem := rfl
@[simp] theorem State.resetBlock_params : s.resetBlock.params = s.params := rfl
@[simp] theorem State.resetBlock_fault : s.resetBlock.fault = s.fault := rfl
@[simp] theorem State.resetBlock_moves : s.resetBlock.moves = s.moves := rfl
@[simp] theorem State.resetBlock_readData : s.resetBlock.readData = s.readData := rfl
@[simp] theorem State.resetBlock_draws : s.resetBlock.draws = s.draws := rfl

end Sys2Proof.Machine
end

