-- ==== Sys2Proof/Laws/Ops.lean ====
section
/-! SUPPORT. One lemma for each shared operation, saying once everything it can do. -/

namespace Sys2Proof.Machine

/-! ### The frame checks -/

theorem frameError_eq_none {s : State} :
    frameError s = none ↔ s.frame.plen.toNat ≤ s.params.payMax ∧ (s.frame.plen.toNat = 0 ∨ s.frame.xhValid = true) := by
  unfold frameError
  by_cases h1 : s.params.payMax < s.frame.plen.toNat
  · rw [if_pos h1]
    exact ⟨fun h => (Option.some_ne_none _ h).elim, fun h => by omega⟩
  · by_cases h2 : 0 < s.frame.plen.toNat ∧ s.frame.xhValid = false
    · rw [if_neg h1, if_pos h2]
      refine ⟨fun h => (Option.some_ne_none _ h).elim, fun ⟨_, h⟩ => ?_⟩
      rcases h with h | h
      · omega
      · rw [h2.2] at h; cases h
    · rw [if_neg h1, if_neg h2]
      refine ⟨fun _ => ⟨by omega, ?_⟩, fun _ => rfl⟩
      cases hx : s.frame.xhValid
      · left
        by_contra h0
        exact h2 ⟨by omega, hx⟩
      · right; rfl

/-- The checks answer none, `FRAME_TOO_LONG` or `INVALID_FRAME`, each under its own condition (R110). -/
theorem frameError_cases (s : State) :
    (frameError s = none ∧ s.frame.plen.toNat ≤ s.params.payMax ∧ (s.frame.plen.toNat = 0 ∨ s.frame.xhValid = true)) ∨
    (frameError s = some .frameTooLong ∧ s.params.payMax < s.frame.plen.toNat) ∨
    (frameError s = some .invalidFrame ∧ s.frame.plen.toNat ≤ s.params.payMax ∧
      0 < s.frame.plen.toNat ∧ s.frame.xhValid = false) := by
  by_cases h1 : s.params.payMax < s.frame.plen.toNat
  · exact .inr (.inl ⟨if_pos h1, h1⟩)
  · by_cases h2 : 0 < s.frame.plen.toNat ∧ s.frame.xhValid = false
    · exact .inr (.inr ⟨by rw [frameError, if_neg h1, if_pos h2], by omega, h2⟩)
    · have h : frameError s = none := by rw [frameError, if_neg h1, if_neg h2]
      exact .inl ⟨h, frameError_eq_none.1 h⟩

/-- `withValidFrame` runs its body on a frame that passes the checks, and raises the check's error otherwise. -/
theorem withValidFrame_cases {s t : State} {body : State → Host.Outcome State Fault Refusal}
    (h : withValidFrame s body = .next t) :
    (frameError s = none ∧ body s = .next t) ∨ ∃ e, frameError s = some e ∧ t = s.setErr e := by
  unfold withValidFrame at h
  split at h
  · next e he => exact .inr ⟨e, he, by cases h; rfl⟩
  · next he => exact .inl ⟨he, h⟩

theorem withValidFrame_of_valid {s : State} {body : State → Host.Outcome State Fault Refusal}
    (h1 : s.frame.plen.toNat ≤ s.params.payMax) (h2 : s.frame.plen.toNat = 0 ∨ s.frame.xhValid = true) :
    withValidFrame s body = body s := by
  rw [withValidFrame, frameError_eq_none.2 ⟨h1, h2⟩]

/-! ### The draw of an Unknown-mode decode -/

/-- An Unknown-mode decode's draw changes the number of draws and nothing else. -/
theorem countUnknownDraw_eq (s : State) : countUnknownDraw s = { s with draws := (countUnknownDraw s).draws } := by
  unfold countUnknownDraw
  split <;> rfl

@[simp] theorem countUnknownDraw_cmd (s : State) : (countUnknownDraw s).cmd = s.cmd := by rw [countUnknownDraw_eq]
@[simp] theorem countUnknownDraw_pending (s : State) : (countUnknownDraw s).pending = s.pending := by rw [countUnknownDraw_eq]
@[simp] theorem countUnknownDraw_flags (s : State) : (countUnknownDraw s).flags = s.flags := by rw [countUnknownDraw_eq]
@[simp] theorem countUnknownDraw_frame (s : State) : (countUnknownDraw s).frame = s.frame := by rw [countUnknownDraw_eq]
@[simp] theorem countUnknownDraw_rxLen (s : State) : (countUnknownDraw s).rxLen = s.rxLen := by rw [countUnknownDraw_eq]
@[simp] theorem countUnknownDraw_txLen (s : State) : (countUnknownDraw s).txLen = s.txLen := by rw [countUnknownDraw_eq]
@[simp] theorem countUnknownDraw_ckCalc (s : State) : (countUnknownDraw s).ckCalc = s.ckCalc := by rw [countUnknownDraw_eq]
@[simp] theorem countUnknownDraw_status (s : State) : (countUnknownDraw s).status = s.status := by rw [countUnknownDraw_eq]
@[simp] theorem countUnknownDraw_mem (s : State) : (countUnknownDraw s).mem = s.mem := by rw [countUnknownDraw_eq]
@[simp] theorem countUnknownDraw_params (s : State) : (countUnknownDraw s).params = s.params := by rw [countUnknownDraw_eq]
@[simp] theorem countUnknownDraw_fault (s : State) : (countUnknownDraw s).fault = s.fault := by rw [countUnknownDraw_eq]
@[simp] theorem countUnknownDraw_moves (s : State) : (countUnknownDraw s).moves = s.moves := by rw [countUnknownDraw_eq]
@[simp] theorem countUnknownDraw_readData (s : State) : (countUnknownDraw s).readData = s.readData := by rw [countUnknownDraw_eq]

/-- Under `ZERO` no draw is taken, under `DRAW` one is (R156). -/
theorem countUnknownDraw_draws (s : State) :
    (countUnknownDraw s).draws = s.draws + (if s.params.unknownModeSpeed = .draw then 1 else 0) := by
  unfold countUnknownDraw
  cases s.params.unknownModeSpeed <;> rfl

/-! ### The fold -/

/-- The fold is the running exclusive-or from the left (R101). -/
theorem fold_eq_foldl (x : Byte) (s : List Byte) : fold x s = s.foldl (· ^^^ ·) x := by
  induction s generalizing x with
  | nil => rfl
  | cons b s ih => exact ih (x ^^^ b)

theorem fold_append (x : Byte) (s u : List Byte) : fold x (s ++ u) = fold (fold x s) u := by
  simp [fold_eq_foldl]

/-! ### The function bitmap -/

/-- A write of one function bit: that bit is the written one, every other bit is as before. -/
theorem getLsbD_writeFn (fn : BitVec 8192) {i : Nat} (hi : i < 8192) (b : Bool) (n : Nat) :
    (writeFn fn i b).getLsbD n = if n = i then b else fn.getLsbD n := by
  unfold writeFn
  by_cases hn : n = i
  · subst hn; cases b <;> simp [hi]
  · cases b
    · have h1 : fn.getLsbD n = true → n < 8192 := fun h => BitVec.lt_of_getLsbD h
      have h2 : n - i ≠ 0 ∨ n < i := by omega
      cases hf : fn.getLsbD n <;> simp_all; omega
    · have h2 : n - i ≠ 0 ∨ n < i := by omega
      rcases h2 with h2 | h2 <;> simp [hn, h2]

/-- One extension byte: its eight bits at `i` to `i + 7`, every other bit as before. -/
theorem getLsbD_writeFnByte (fn : BitVec 8192) {i : Nat} (hi : i + 7 < 8192) (v : Byte) (n : Nat) :
    (writeFnByte fn i v).getLsbD n = if i ≤ n ∧ n < i + 8 then v.getLsbD (n - i) else fn.getLsbD n := by
  have h : writeFnByte fn i v = writeFn (writeFn (writeFn (writeFn (writeFn (writeFn (writeFn (writeFn fn
      (i + 0) (v.getLsbD 0)) (i + 1) (v.getLsbD 1)) (i + 2) (v.getLsbD 2)) (i + 3) (v.getLsbD 3))
      (i + 4) (v.getLsbD 4)) (i + 5) (v.getLsbD 5)) (i + 6) (v.getLsbD 6)) (i + 7) (v.getLsbD 7) := rfl
  rw [h]
  repeat rw [getLsbD_writeFn _ (by omega)]
  by_cases hn : i ≤ n ∧ n < i + 8
  · rw [if_pos hn]
    obtain ⟨d, rfl⟩ : ∃ d, n = i + d := ⟨n - i, by omega⟩
    have hd : d < 8 := by omega
    interval_cases d <;> simp
  · rw [if_neg hn]
    repeat rw [if_neg (by omega)]

/-- The extension bytes from number `j` on: byte `j + m`'s bit `b` at `5 + 8 (j + m) + b`, every other bit as before. -/
theorem getLsbD_writeExtension (fn : BitVec 8192) (j : Nat) (vs : List Byte) (h : 5 + 8 * (j + vs.length) ≤ 8192)
    (n : Nat) :
    (writeExtension fn j vs).getLsbD n =
      if 5 + 8 * j ≤ n ∧ n < 5 + 8 * (j + vs.length) then
        (vs.getD ((n - 5) / 8 - j) 0#8).getLsbD ((n - 5) % 8)
      else fn.getLsbD n := by
  induction vs generalizing fn j with
  | nil => simp only [writeExtension, List.length_nil]; rw [if_neg (by omega)]
  | cons v vs ih =>
    simp only [List.length_cons] at h ⊢
    rw [writeExtension, ih _ _ (by omega), getLsbD_writeFnByte _ (by omega)]
    by_cases h1 : 5 + 8 * (j + 1) ≤ n ∧ n < 5 + 8 * (j + 1 + vs.length)
    · rw [if_pos h1, if_pos (by omega), show (n - 5) / 8 - j = ((n - 5) / 8 - (j + 1)) + 1 by omega]
      rfl
    · rw [if_neg h1]
      by_cases h2 : 5 + 8 * j ≤ n ∧ n < 5 + 8 * j + 8
      · rw [if_pos h2, if_pos (by omega), show (n - 5) / 8 - j = 0 by omega,
          show (n - 5) % 8 = n - (5 + 8 * j) by omega]
        rfl
      · rw [if_neg h2, if_neg (by omega)]

/-- The legacy byte on a cleared bitmap (R159): bit 4 is function 0, and bits 0 to 3 are functions 1 to 4. -/
theorem getLsbD_writeLegacy (p4 : Byte) (n : Nat) :
    (writeLegacy 0#8192 p4).getLsbD n =
      if n = 0 then p4.getLsbD 4 else if n ≤ 4 then p4.getLsbD (n - 1) else false := by
  unfold writeLegacy
  repeat rw [getLsbD_writeFn _ (by omega)]
  by_cases h : n ≤ 4
  · interval_cases n <;> simp
  · rw [if_neg (by omega), if_neg (by omega), if_neg (by omega), if_neg (by omega), if_neg (by omega),
      if_neg (by omega), if_neg h, BitVec.getLsbD_zero]

/-! ### The speed -/

/-- `speedField` of an integer below 128 is that integer, floored at 0. -/
theorem speedField_toNat {x : Int} (h : x < 128) : (speedField x).toNat = (max 0 x).toNat := by
  unfold speedField
  rw [BitVec.toNat_ofNat, Nat.mod_eq_of_lt]
  omega

/-- What `speed_decode` can say (R155). -/
theorem knownSpeed_cases (sel : BitVec 3) (mag : BitVec 7) :
    (sel = 1#3 ∧ knownSpeed sel mag = some (.fourteenStep, speedField ((mag.toNat : Int) - 1))) ∨
    (sel = 2#3 ∧ knownSpeed sel mag =
      some (.twentyEightStep, speedField (2 * (((mag &&& 0x0F#7).toNat : Int) - 1)))) ∨
    (sel = 4#3 ∧ knownSpeed sel mag = some (.hundredTwentySixStep, speedField ((mag.toNat : Int) - 1))) ∨
    (sel ≠ 1#3 ∧ sel ≠ 2#3 ∧ sel ≠ 4#3 ∧ knownSpeed sel mag = none) := by
  unfold knownSpeed
  by_cases h1 : sel = 1#3
  · exact .inl ⟨h1, if_pos h1⟩
  · by_cases h2 : sel = 2#3
    · exact .inr (.inl ⟨h2, by rw [if_neg h1, if_pos h2]⟩)
    · by_cases h4 : sel = 4#3
      · exact .inr (.inr (.inl ⟨h4, by rw [if_neg h1, if_neg h2, if_pos h4]⟩))
      · exact .inr (.inr (.inr ⟨h1, h2, h4, by rw [if_neg h1, if_neg h2, if_neg h4]⟩))

/-! ### The record's fields, as numbers (R151 to R153) -/

theorem selector_toNat (p : List Byte) : (selector p).toNat = (byteAt p 2).toNat % 8 := by simp [selector]

theorem magnitude_toNat (p : List Byte) : (magnitude p).toNat = (byteAt p 3).toNat % 128 := by simp [magnitude]

theorem magnitude_low_toNat (p : List Byte) : (magnitude p &&& 0x0F#7).toNat = (byteAt p 3).toNat % 16 := by
  rw [BitVec.toNat_and, magnitude_toNat, show (0x0F#7).toNat = 2 ^ 4 - 1 from rfl, Nat.and_two_pow_sub_one_eq_mod]
  omega

theorem address_maskedShift_toNat (p0 p1 : Byte) :
    (address .maskedShift p0 p1).toNat = p0.toNat % 64 * 256 + p1.toNat := by
  have h1 := p1.isLt
  simp only [address, BitVec.toNat_or, BitVec.toNat_shiftLeft, BitVec.toNat_setWidth, BitVec.toNat_and]
  rw [show (0x3F#8).toNat = 2 ^ 6 - 1 from rfl, Nat.and_two_pow_sub_one_eq_mod,
    Nat.mod_eq_of_lt (a := p0.toNat % 2 ^ 6) (by omega), Nat.mod_eq_of_lt (a := p1.toNat) (by omega),
    Nat.mod_eq_of_lt (by rw [Nat.shiftLeft_eq]; omega), Nat.shiftLeft_eq, Nat.mul_comm _ (2 ^ 8),
    ← Nat.two_pow_add_eq_or_of_lt (i := 8) (by omega)]

/-- The two masks of `SOURCE_LITERAL` have no common bit with an 8-bit value, so the high part is 0 (R152). -/
theorem address_sourceLiteral (p0 p1 : Byte) : address .sourceLiteral p0 p1 = p1.setWidth 14 := by
  simp only [address]; ext n hn; interval_cases n <;> simp

theorem directionOf_bit7 (b : Byte) : directionOf (b.getLsbD 7) = if 128 ≤ b.toNat then .forward else .backward := by
  have h : b.getLsbD 7 = decide (128 ≤ b.toNat) := by
    rw [show b.getLsbD 7 = b.msb by simp [BitVec.msb_eq_getLsbD_last], BitVec.msb_eq_decide]
  rw [h, directionOf]; simp

end Sys2Proof.Machine
end

