-- ==== Sys2Proof/Laws/Bus.lean ====
section
/-! SUPPORT. Everything a host access can do, said once (`access_effect`). -/

namespace Sys2Proof.Machine

/-- The ways a host access can change the state (R58, R59). -/
inductive AccessEffect : State → State → Prop
  /-- A host fault, and nothing else (R61, R193). -/
  | faulted (s : State) (k : HostFault) : AccessEffect s (s.setFault k)
  /-- A read. -/
  | read (s : State) (v : Word) : AccessEffect s (s.setReadData v)
  /-- A read of `STATUS` while `BUSY` = 1 (R186). -/
  | readBusy (s : State) (hb : busy s = true) :
      AccessEffect s (s.countDraw.setReadData (busyStatusWord s.draws))
  /-- A write of `CMD` (R26). -/
  | command (s : State) (w : Word) (hb : busy s = false) : AccessEffect s (s.setCommand w)
  /-- A write of `RX_LEN`. -/
  | rxLen (s : State) (n : Half) (hb : busy s = false) : AccessEffect s (s.setRxLen n)
  /-- A write of a frame register. -/
  | frame (s : State) (f : Frame) (hb : busy s = false) : AccessEffect s (s.setFrame f)
  /-- A write of mapped bytes of `RX` or `PAY`. -/
  | buffer (s : State) (o : Nat) (bs : List Byte) (hb : busy s = false) (hl : bs.length = 1 ∨ bs.length = 4 ∧ o % 4 = 0)
      (hm : ∀ i, i < bs.length → bufferMapped s.params (o + i) = true) (ht : inTx o = false) :
      AccessEffect s (s.setMem (Memory.writeBytes s.mem o bs))

/-- A 1-byte access that passes the checks reaches a mapped buffer byte. -/
theorem target8_ok {p : Params} {o : Nat} {t : Target} (h : target8 p o = .ok t) :
    t = .buffer ∧ 0x1000 ≤ o ∧ bufferMapped p o = true := by
  unfold target8 at h
  split at h
  · cases h
  · split at h
    · next h1 h2 => cases h; exact ⟨rfl, by omega, h2⟩
    · cases h

/-- A 4-byte access that passes the checks is aligned, and reaches a mapped register or four mapped buffer bytes. -/
theorem target32_ok {p : Params} {o : Nat} {t : Target} (h : target32 p o = .ok t) :
    o % 4 = 0 ∧ ((o < 0x1000 ∧ ∃ r, regAt o = some r ∧ t = .reg r) ∨
      (0x1000 ≤ o ∧ t = .buffer ∧ ∀ i, i < 4 → bufferMapped p (o + i) = true)) := by
  unfold target32 at h
  split at h
  · cases h
  · next h0 =>
    refine ⟨by omega, ?_⟩
    split at h
    · next h1 =>
      split at h
      · next r hr => cases h; exact .inl ⟨h1, r, hr, rfl⟩
      · cases h
    · next h1 =>
      split at h
      · next h2 =>
        cases h
        refine .inr ⟨by omega, rfl, fun i hi => ?_⟩
        obtain ⟨a, b, c, d⟩ := h2
        interval_cases i
        · exact a
        · exact b
        · exact c
        · exact d
      · cases h

theorem readReg_effect (r : Reg) (s : State) : AccessEffect s (readReg r s) := by
  unfold readReg
  split
  · next h => exact .readBusy s h.2
  · exact .read ..

theorem writeReg_effect {r : Reg} {v : Word} {s t : State} (hb : busy s = false) (h : writeReg r v s = some t) :
    AccessEffect s t := by
  cases r <;> cases h
  · exact .command s v hb
  · exact .rxLen s _ hb
  all_goals exact .frame s _ hb

theorem writeBuffer_effect {o : Nat} {bs : List Byte} {s : State} (hb : busy s = false)
    (hl : bs.length = 1 ∨ bs.length = 4 ∧ o % 4 = 0)
    (hm : ∀ i, i < bs.length → bufferMapped s.params (o + i) = true) : AccessEffect s (writeBuffer o bs s) := by
  unfold writeBuffer
  split
  · exact .faulted ..
  · next ht => exact .buffer s o bs hb hl hm (by simpa using ht)

/-- Everything a host access can do. -/
theorem access_effect (a : Access) (s : State) : AccessEffect s (access a s) := by
  cases a with
  | read8 o =>
    simp only [access, memRead8]
    split
    · exact .faulted ..
    · split
      · exact .faulted ..
      · split
        · exact .faulted ..
        · exact .read ..
  | read32 o =>
    simp only [access, memRead32]
    split
    · exact .faulted ..
    · split
      · exact .faulted ..
      · split
        · exact readReg_effect ..
        · split
          · exact .read ..
          · exact .faulted ..
  | write8 o v =>
    simp only [access, memWrite8]
    split
    · exact .faulted ..
    · next t ht =>
      split
      · exact .faulted ..
      · next hb =>
        obtain ⟨-, -, hm⟩ := target8_ok ht
        exact writeBuffer_effect (by simpa using hb) (.inl rfl) fun i hi => by
          obtain rfl : i = 0 := by simpa using hi
          exact hm
  | write32 o v =>
    simp only [access, memWrite32]
    split
    · exact .faulted ..
    · next t ht =>
      split
      · exact .faulted ..
      · next hb =>
        obtain ⟨h4, h⟩ := target32_ok ht
        split
        · split
          · next h' => exact writeReg_effect (by simpa using hb) h'
          · exact .faulted ..
        · rcases h with ⟨-, r, -, hr⟩ | ⟨-, -, hm⟩
          · cases hr
          · exact writeBuffer_effect (by simpa using hb) (.inr ⟨rfl, h4⟩) fun i hi => hm i hi

end Sys2Proof.Machine
end

