-- ==== Sys2Proof/Laws/Access.lean ====
section
/-! SUPPORT. What each kind of host access gives when no command is pending: one lemma per kind of access and target. -/

namespace Sys2Proof.Machine

/-- One row of a lookup written as a conditional: the row's key and value, or a later row. -/
theorem of_ite_some {α : Type} {c : Prop} [Decidable c] {a r : α} {b : Option α}
    (h : (if c then some a else b) = some r) : (c ∧ r = a) ∨ b = some r := by
  by_cases hc : c
  · rw [if_pos hc] at h; exact .inl ⟨hc, (Option.some.inj h).symm⟩
  · rw [if_neg hc] at h; exact .inr h

/-- The register map (R25), row by row. -/
theorem regAt_eq_some {o : Nat} {r : Reg} :
    regAt o = some r ↔
      o = 0x000 ∧ r = .cmd ∨
      o = 0x004 ∧ r = .status ∨
      o = 0x008 ∧ r = .rxLen ∨
      o = 0x00C ∧ r = .txLen ∨
      o = 0x010 ∧ r = .fLen ∨
      o = 0x014 ∧ r = .fHdr ∨
      o = 0x018 ∧ r = .fXh ∨
      o = 0x01C ∧ r = .fPlen ∨
      o = 0x020 ∧ r = .fCk ∨
      o = 0x024 ∧ r = .ckCalc ∨
      o = 0x030 ∧ r = .sAddr ∨
      o = 0x034 ∧ r = .sMode ∨
      o = 0x038 ∧ r = .sSpeed ∨
      o = 0x03C ∧ r = .sDir ∨
      o = 0x040 ∧ r = .sFnCnt ∨
      o = 0x080 ∧ r = .param0 ∨
      o = 0x084 ∧ r = .param1 ∨
      (0x400 ≤ o ∧ o < 0x800 ∧ o % 4 = 0) ∧ r = .fnW ((o - 0x400) / 4) := by
  unfold regAt
  constructor
  · intro h
    iterate 17 refine (of_ite_some h).imp_right fun h => ?_
    exact (of_ite_some h).resolve_right (by simp)
  · intro h
    rcases h with h | h | h | h | h | h | h | h | h | h | h | h | h | h | h | h | h | ⟨h, rfl⟩
    all_goals first | (obtain ⟨rfl, rfl⟩ := h; rfl) | skip
    iterate 17 rw [if_neg (by omega)]
    rw [if_pos h]

/-- R7's legal values, as inequalities. -/
theorem Params.legal_iff {p : Params} :
    p.legal = true ↔ 4 ≤ p.payMax ∧ p.payMax ≤ 4090 ∧ p.fnExtMax ≤ fnExtLimit p.payMax := by
  simp [Params.legal, and_assoc]

/-- The mapped buffer offsets (R63), as inequalities. -/
theorem bufferMapped_iff {p : Params} {o : Nat} :
    bufferMapped p o = true ↔ (rxBase ≤ o ∧ o < rxBase + p.frameMax) ∨ (txBase ≤ o ∧ o < txBase + p.frameMax) ∨
      (payBase ≤ o ∧ o < payBase + p.payMax) := by
  simp [bufferMapped, or_assoc]

/-- The `TX` region (R61), as inequalities. -/
theorem inTx_iff {o : Nat} : inTx o = true ↔ txBase ≤ o ∧ o < payBase := by
  rw [inTx, Bool.and_eq_true, decide_eq_true_eq, decide_eq_true_eq]

/-- A buffer offset is at or above 0x1000. -/
theorem le_of_bufferMapped {p : Params} {o : Nat} (h : bufferMapped p o = true) : 0x1000 ≤ o := by
  rcases bufferMapped_iff.1 h with h | h | h <;> simp only [rxBase, txBase, payBase] at h <;> omega

theorem target8_buffer {p : Params} {o : Nat} (h : bufferMapped p o = true) : target8 p o = .ok .buffer := by
  have := le_of_bufferMapped h
  rw [target8, if_neg (by omega), if_pos h]

theorem target32_reg {p : Params} {o : Nat} {r : Reg} (ho : o < 0x1000) (h4 : o % 4 = 0) (hr : regAt o = some r) :
    target32 p o = .ok (.reg r) := by
  rw [target32, if_neg (by omega), if_pos ho, hr]

theorem target32_buffer {p : Params} {o : Nat} (h4 : o % 4 = 0) (h : ∀ i, i < 4 → bufferMapped p (o + i) = true) :
    target32 p o = .ok .buffer := by
  have := le_of_bufferMapped (h 0 (by omega))
  rw [target32, if_neg (by omega), if_neg (by omega),
    if_pos ⟨h 0 (by omega), h 1 (by omega), h 2 (by omega), h 3 (by omega)⟩]

variable {s : State} {o : Nat}

/-- A 4-byte write of a register: the register's store, or `WRITE_RO` (R59, R61). -/
theorem access_write32_reg {v : Word} {r : Reg} (hp : s.pending = none) (ho : o < 0x1000) (h4 : o % 4 = 0)
    (hr : regAt o = some r) : access (.write32 o v) s = (writeReg r v s).getD (s.setFault .writeRo) := by
  simp only [access, memWrite32, target32_reg ho h4 hr, busy, hp, Option.isSome_none, Bool.false_eq_true, if_false]
  cases writeReg r v s <;> rfl

/-- A 4-byte read of a register (R58). -/
theorem access_read32_reg {r : Reg} (hp : s.pending = none) (ho : o < 0x1000) (h4 : o % 4 = 0)
    (hr : regAt o = some r) : access (.read32 o) s = s.setReadData (regWord s r) := by
  simp [access, memRead32, target32_reg ho h4 hr, readReg, busy, hp]

/-- A 1-byte write of a mapped buffer byte (R59). -/
theorem access_write8_buffer {v : Byte} (hp : s.pending = none) (h : bufferMapped s.params o = true) :
    access (.write8 o v) s = writeBuffer o [v] s := by
  simp [access, memWrite8, target8_buffer h, busy, hp]

/-- A 4-byte write of mapped buffer bytes (R57, R59). -/
theorem access_write32_buffer {v : Word} (hp : s.pending = none) (h4 : o % 4 = 0)
    (h : ∀ i, i < 4 → bufferMapped s.params (o + i) = true) :
    access (.write32 o v) s = writeBuffer o (bytesOfWord v) s := by
  simp [access, memWrite32, target32_buffer h4 h, busy, hp]

/-- A 1-byte read of a mapped buffer byte (R58). -/
theorem access_read8_buffer (hp : s.pending = none) (h : bufferMapped s.params o = true) :
    access (.read8 o) s =
      match Memory.read s.mem o with
      | none => s.setFault .unwrittenRead
      | some b => s.setReadData (b.setWidth 32) := by
  cases hr : Memory.read s.mem o <;> simp [access, memRead8, target8_buffer h, busy, hp, hr]

/-- A 4-byte read of mapped buffer bytes (R57, R58). -/
theorem access_read32_buffer (hp : s.pending = none) (h4 : o % 4 = 0)
    (h : ∀ i, i < 4 → bufferMapped s.params (o + i) = true) :
    access (.read32 o) s =
      match Memory.readBytes s.mem o 4 with
      | some [b0, b1, b2, b3] => s.setReadData (wordOfBytes b0 b1 b2 b3)
      | _ => s.setFault .unwrittenRead := by
  rcases hr : Memory.readBytes s.mem o 4 with _ | (_ | ⟨_, _ | ⟨_, _ | ⟨_, _ | ⟨_, _ | ⟨_, _⟩⟩⟩⟩⟩) <;>
    simp [access, memRead32, target32_buffer h4 h, busy, hp, hr]

/-- While a command is pending every access that passes the checks and is not a read of `STATUS`, `PARAM0` or `PARAM1`
is `BUSY_ACCESS` (R220). -/
theorem access_read32_busy {t : Target} (hp : s.pending.isSome = true) (ht : target32 s.params o = .ok t)
    (hr : readableWhileBusy t = false) : access (.read32 o) s = s.setFault .busyAccess := by
  simp [access, memRead32, ht, busy, hp, hr]

end Sys2Proof.Machine
end

