-- ==== Sys2Proof/Laws/Decode.lean ====
section
/-! SUPPORT. The fields of a command word and of a wire key, of words built from bytes, and of byte sequences given by
an index: one lemma per field. -/

namespace Sys2Proof

/-! ### Command words (R80) -/

@[simp] theorem opField_commandWord (op a0 a1 : Byte) : opField (commandWord op a0 a1) = op := by
  unfold opField commandWord; ext n hn; interval_cases n <;> simp

@[simp] theorem a0Field_commandWord (op a0 a1 : Byte) : a0Field (commandWord op a0 a1) = a0 := by
  unfold a0Field commandWord; ext n hn; interval_cases n <;> simp

@[simp] theorem a1Field_commandWord (op a0 a1 : Byte) : a1Field (commandWord op a0 a1) = a1 := by
  unfold a1Field commandWord; ext n hn; interval_cases n <;> simp

@[simp] theorem rsvdField_commandWord (op a0 a1 : Byte) : rsvdField (commandWord op a0 a1) = 0#8 := by
  unfold rsvdField commandWord; ext n hn; interval_cases n <;> simp

/-- A word whose `RSVD` is 0 is the command word of its other three fields. -/
theorem commandWord_of_fields {w : Word} (h : rsvdField w = 0#8) :
    commandWord (opField w) (a0Field w) (a1Field w) = w := by
  have hb : ∀ n, n < 8 → w.getLsbD (24 + n) = false := fun n hn => by
    simpa [rsvdField, hn] using congrArg (fun b => b.getLsbD n) h
  have h24 := hb 0 (by omega)
  have h25 := hb 1 (by omega)
  have h26 := hb 2 (by omega)
  have h27 := hb 3 (by omega)
  have h28 := hb 4 (by omega)
  have h29 := hb 5 (by omega)
  have h30 := hb 6 (by omega)
  have h31 := hb 7 (by omega)
  unfold commandWord opField a0Field a1Field
  ext n hn
  interval_cases n <;> simp_all

theorem opField_toNat (w : Word) : (opField w).toNat = w.toNat % 0x100 := by simp [opField]

theorem a0Field_toNat (w : Word) : (a0Field w).toNat = w.toNat / 0x100 % 0x100 := by
  simp [a0Field, Nat.shiftRight_eq_div_pow]

theorem a1Field_toNat (w : Word) : (a1Field w).toNat = w.toNat / 0x10000 % 0x100 := by
  simp [a1Field, Nat.shiftRight_eq_div_pow]

theorem rsvdField_toNat (w : Word) : (rsvdField w).toNat = w.toNat / 0x1000000 := by
  simp [rsvdField, Nat.shiftRight_eq_div_pow]; omega

/-! ### Wire keys (R89) -/

@[simp] theorem keyHdr0_wireKey (a b c : Byte) (v : Bool) : keyHdr0 (wireKey a b c v) = a := by
  unfold keyHdr0 wireKey; ext n hn; interval_cases n <;> simp

@[simp] theorem keyHdr1_wireKey (a b c : Byte) (v : Bool) : keyHdr1 (wireKey a b c v) = b := by
  unfold keyHdr1 wireKey; ext n hn; interval_cases n <;> simp

@[simp] theorem keyXh_wireKey (a b c : Byte) (v : Bool) : keyXh (wireKey a b c v) = c := by
  unfold keyXh wireKey; ext n hn; interval_cases n <;> simp

@[simp] theorem keyXhValid_wireKey (a b c : Byte) (v : Bool) : keyXhValid (wireKey a b c v) = v := by
  unfold keyXhValid wireKey; simp

/-- A key is the key of its four fields. -/
theorem wireKey_of_fields (k : BitVec 25) : wireKey (keyHdr0 k) (keyHdr1 k) (keyXh k) (keyXhValid k) = k := by
  unfold wireKey keyHdr0 keyHdr1 keyXh keyXhValid; ext n hn; interval_cases n <;> simp

@[simp] theorem setWidth_key (k : BitVec 25) : (k.setWidth 32).setWidth 25 = k := by ext n hn; simp

/-! ### Words of bytes (R55, R57) -/

/-- A word is the word of its four bytes. -/
@[simp] theorem wordOfBytes_of_bytes (w : Word) :
    wordOfBytes (w.extractLsb' 0 8) (w.extractLsb' 8 8) (w.extractLsb' 16 8) (w.extractLsb' 24 8) = w := by
  unfold wordOfBytes; ext n hn; interval_cases n <;> simp

theorem wordOfBytes_toNat (a b c d : Byte) :
    (wordOfBytes a b c d).toNat = a.toNat + 0x100 * b.toNat + 0x10000 * c.toNat + 0x1000000 * d.toNat := by
  have ha := a.isLt
  have hb := b.isLt
  have hc := c.isLt
  have hd := d.isLt
  have shift : ∀ (x : Byte) (k : Nat), k ≤ 24 → ((x.setWidth 32) <<< k).toNat = x.toNat <<< k := by
    intro x k hk
    have hx := x.isLt
    rw [BitVec.toNat_shiftLeft, BitVec.toNat_setWidth, Nat.mod_eq_of_lt (a := x.toNat) (by omega), Nat.mod_eq_of_lt]
    rw [Nat.shiftLeft_eq]
    calc x.toNat * 2 ^ k < 2 ^ 8 * 2 ^ k := Nat.mul_lt_mul_of_pos_right hx (by positivity)
      _ ≤ 2 ^ 8 * 2 ^ 24 := Nat.mul_le_mul_left _ (Nat.pow_le_pow_right (by omega) hk)
  have h0 : (a.setWidth 32).toNat = a.toNat := by rw [BitVec.toNat_setWidth, Nat.mod_eq_of_lt (by omega)]
  unfold wordOfBytes
  rw [BitVec.toNat_or, BitVec.toNat_or, BitVec.toNat_or, shift b 8 (by omega), shift c 16 (by omega),
    shift d 24 (by omega), h0, Nat.lor_comm a.toNat, ← Nat.shiftLeft_add_eq_or_of_lt ha,
    Nat.lor_comm _ (c.toNat <<< 16), ← Nat.shiftLeft_add_eq_or_of_lt (by rw [Nat.shiftLeft_eq]; omega),
    Nat.lor_comm _ (d.toNat <<< 24),
    ← Nat.shiftLeft_add_eq_or_of_lt (by rw [Nat.shiftLeft_eq, Nat.shiftLeft_eq]; omega)]
  simp only [Nat.shiftLeft_eq]
  omega

/-- Byte `k` of a word, as a quotient. -/
theorem byte_of_word (v : Word) (k : Nat) : v.extractLsb' (8 * k) 8 = BitVec.ofNat 8 (v.toNat / 256 ^ k) := by
  apply BitVec.eq_of_toNat_eq
  rw [BitVec.extractLsb'_toNat, BitVec.toNat_ofNat, Nat.shiftRight_eq_div_pow, show (256 : Nat) = 2 ^ 8 from rfl, pow_mul]

namespace Machine

/-- `le16`, as a sum (R12). -/
theorem le16_eq (lo hi : Byte) : le16 lo hi = BitVec.ofNat 16 (lo.toNat + 256 * hi.toNat) := by
  have hl := lo.isLt
  have hh := hi.isLt
  apply BitVec.eq_of_toNat_eq
  rw [BitVec.toNat_ofNat, Nat.mod_eq_of_lt (by omega), le16, BitVec.toNat_or, BitVec.toNat_shiftLeft,
    BitVec.toNat_setWidth, BitVec.toNat_setWidth, Nat.mod_eq_of_lt (a := lo.toNat) (by omega),
    Nat.mod_eq_of_lt (a := hi.toNat) (by omega), Nat.mod_eq_of_lt (by rw [Nat.shiftLeft_eq]; omega), Nat.lor_comm,
    ← Nat.shiftLeft_add_eq_or_of_lt hl, Nat.shiftLeft_eq]
  omega

/-- The two bytes of a 16-bit value, low byte first, give it back. -/
theorem le16_bytes (n : Half) : le16 (n.extractLsb' 0 8) (n.extractLsb' 8 8) = n := by
  unfold le16; ext i hi; interval_cases i <;> simp

/-! ### Byte sequences given by an index (R11) -/

theorem byteAt_range (b : Nat → Byte) {n i : Nat} (h : i < n) : byteAt ((List.range n).map b) i = b i := by
  simp [byteAt, h]

theorem slice_range (b : Nat → Byte) {n i j : Nat} (hj : j ≤ n) :
    slice ((List.range n).map b) i j = (List.range (j - i)).map (fun k => b (i + k)) := by
  apply List.ext_getElem
  · simp only [slice, List.length_take, List.length_drop, List.length_map, List.length_range]; omega
  · intro k h1 h2; simp [slice]

end Machine

end Sys2Proof
end

