-- ==== Sys2Proof/Laws/Exec.lean ====
section
/-! SUPPORT. Everything an instruction can do, said once (`exec_effect`): the provers cite it instead of unfolding the
meanings. -/

namespace Sys2Proof.Machine

/-- The ways an instruction can change the state. -/
inductive Effect : Instr → State → State → Prop
  /-- Only a result code (R181), or NOP's `finish(OK)`. -/
  | code (i : Instr) (s : State) (e : ErrCode) : Effect i s (s.setErr e)
  /-- A read of a byte with no value (R46). -/
  | unwritten (i : Instr) (s : State) : Effect i s (s.setFault .unwrittenRead)
  /-- PARSE of a datagram (R103). -/
  | parsed (s : State) (d : List Byte) (h5 : 5 ≤ s.rxLen.toNat) (hm : s.rxLen.toNat ≤ s.params.frameMax)
      (hd : rxDatagram s = some d) : Effect .parse s ((parseWrites d s).setErr .ok)
  /-- SERIALIZE with an extended header (R111). -/
  | emitted (s : State) (p : List Byte) (hk : s.frame.plen.toNat ≤ s.params.payMax) (hx : s.frame.xhValid = true)
      (hp : payload s = some p) :
      Effect .serialize s ((emit (extendedBody s.frame p) (s.setCkCalc (fold s.frame.xh p))).setErr .ok)
  /-- SERIALIZE without one (R111). -/
  | emittedShort (s : State) (hk : s.frame.plen.toNat = 0) (hx : s.frame.xhValid = false) :
      Effect .serialize s ((emit [s.frame.hdr0, s.frame.hdr1] s).setErr .ok)
  /-- CHECKSUM (R117). -/
  | checked (s : State) (p : List Byte) (hk : s.frame.plen.toNat ≤ s.params.payMax) (hx : s.frame.xhValid = true)
      (hp : payload s = some p) :
      Effect .checksum s (((s.setCkCalc (fold s.frame.xh p)).setCksumOk
        (suppliedCksumOk s.frame (fold s.frame.xh p))).setErr .ok)
  /-- BUILD_LOGOFF (R132). -/
  | builtLogoff (s : State) : Effect .buildLogoff s
      (((s.setFrame (builtFrame 0x30#8 0x00#8 none 0)).setMem s.mem).setErr .ok)
  /-- BUILD_LOGIN (R134). -/
  | builtLogin (s : State) : Effect .buildLogin s
      (((s.setFrame (builtFrame 0x10#8 0x01#8 none 0)).setMem s.mem).setErr .ok)
  /-- BUILD_SUB_ALL (R136). -/
  | builtSubAll (s : State) : Effect .buildSubAll s
      (((s.setFrame (builtFrame 0x50#8 0x00#8 (some 0x00#8) 3)).setMem
        (Memory.writeBytes s.mem payBase [0x01#8, 0x00#8, 0x01#8])).setErr .ok)
  /-- BUILD_SUB_LOCO (R138). -/
  | builtSubLoco (hi lo : Byte) (s : State) : Effect (.buildSubLoco hi lo) s
      (((s.setFrame (builtFrame 0x40#8 0x00#8 (some 0xE3#8) 3)).setMem
        (Memory.writeBytes s.mem payBase [0xF0#8, hi, lo])).setErr .ok)
  /-- DECODE, or DECODE of a LOCO_STATUS frame, in a known mode (R155). -/
  | decodedKnown (i : Instr) (hi : i = .decode ∨ i = .locoStatus) (s : State) (p : List Byte) (m : StepMode)
      (v : BitVec 7) (h4 : 4 ≤ s.frame.plen.toNat) (hk : s.frame.plen.toNat ≤ s.params.payMax)
      (hp : payloadBytes s (decodeLength s) = some p) (hv : knownSpeed (selector p) (magnitude p) = some (m, v)) :
      Effect i s ((s.setStatus (statusRecord s.params p s.frame.plen.toNat m v)
        (truncated s.params s.frame.plen.toNat)).setErr .ok)
  /-- The same in Unknown mode (R156). -/
  | decodedUnknown (i : Instr) (hi : i = .decode ∨ i = .locoStatus) (s : State) (p : List Byte)
      (h4 : 4 ≤ s.frame.plen.toNat) (hk : s.frame.plen.toNat ≤ s.params.payMax)
      (hp : payloadBytes s (decodeLength s) = some p) (hv : knownSpeed (selector p) (magnitude p) = none) :
      Effect i s (((countUnknownDraw s).setStatus (statusRecord s.params p s.frame.plen.toNat .unknown
        (unknownSpeed s.params.unknownModeSpeed s.draws)) (truncated s.params s.frame.plen.toNat)).setErr
          .unknownSpeedStepMode)

/-- How many payload bytes PARSE stores (R103). -/
theorem parsedPayload_length {s : State} {d : List Byte} (hd : rxDatagram s = some d) :
    (parsedPayload d).length = s.rxLen.toNat - 6 := by
  have := (Memory.readBytes_eq_some.1 hd).1
  simp only [parsedPayload, slice, List.length_take, List.length_drop]
  omega

/-- The payload read has `F_PLEN` bytes. -/
theorem payload_length {s : State} {p : List Byte} (hp : payload s = some p) : p.length = s.frame.plen.toNat :=
  (Memory.readBytes_eq_some.1 hp).1

/-- How many bytes SERIALIZE stores with an extended header (R111). -/
theorem extended_length {s : State} {p : List Byte} (hp : payload s = some p) :
    (datagram (extendedBody s.frame p)).length = 6 + s.frame.plen.toNat := by
  simp only [datagram, extendedBody, List.length_cons, List.length_append, List.length_nil, payload_length hp]
  omega

theorem execParse_effect {s t : State} (h : execParse s = .next t) : Effect .parse s t := by
  unfold execParse at h
  split at h
  · cases h; exact .code ..
  · split at h
    · cases h; exact .code ..
    · split at h
      · cases h; exact .unwritten ..
      · next d hd => cases h; exact .parsed s d (by omega) (by omega) hd

theorem execSerialize_effect {s t : State} (h : execSerialize s = .next t) : Effect .serialize s t := by
  rcases withValidFrame_cases h with ⟨hv, h⟩ | ⟨e, -, rfl⟩
  · obtain ⟨hk, h0⟩ := frameError_eq_none.1 hv
    split at h
    · next hx =>
      split at h
      · cases h; exact .unwritten ..
      · next p hp => cases h; exact .emitted s p hk hx hp
    · next hx => cases h; exact .emittedShort s (h0.resolve_right hx) (by simpa using hx)
  · exact .code ..

theorem execChecksum_effect {s t : State} (h : execChecksum s = .next t) : Effect .checksum s t := by
  rcases withValidFrame_cases h with ⟨hv, h⟩ | ⟨e, -, rfl⟩
  · obtain ⟨hk, h0⟩ := frameError_eq_none.1 hv
    split at h
    · next hx =>
      split at h
      · cases h; exact .unwritten ..
      · next p hp => cases h; exact .checked s p hk hx hp
    · cases h; exact .code ..
  · exact .code ..

theorem decodeStatus_effect {i : Instr} (hi : i = .decode ∨ i = .locoStatus) {s t : State}
    (hk : s.frame.plen.toNat ≤ s.params.payMax) (h : decodeStatus s = .next t) : Effect i s t := by
  unfold decodeStatus at h
  split at h
  · cases h; exact .code ..
  · next h4 =>
    split at h
    · cases h; exact .unwritten ..
    · next p hp =>
      unfold decodeWrites at h
      dsimp only at h
      split at h
      · next m v hv => cases h; exact .decodedKnown i hi s p m v (by omega) hk hp hv
      · next hv => cases h; exact .decodedUnknown i hi s p (by omega) hk hp hv

theorem ignoreFrame_effect {i : Instr} {s t : State} (h : withValidFrame s ignoreFrame = .next t) : Effect i s t := by
  rcases withValidFrame_cases h with ⟨-, h⟩ | ⟨e, -, rfl⟩
  · cases h; exact .code ..
  · exact .code ..

theorem execDecode_effect {s t : State} (h : execDecode s = .next t) : Effect .decode s t := by
  rcases withValidFrame_cases h with ⟨hv, h⟩ | ⟨e, -, rfl⟩
  · split at h
    · exact decodeStatus_effect (.inl rfl) (frameError_eq_none.1 hv).1 h
    · cases h; exact .code ..
  · exact .code ..

theorem execLocoStatus_effect {s t : State} (h : execLocoStatus s = .next t) : Effect .locoStatus s t := by
  rcases withValidFrame_cases h with ⟨hv, h⟩ | ⟨e, -, rfl⟩
  · exact decodeStatus_effect (.inr rfl) (frameError_eq_none.1 hv).1 h
  · exact .code ..

/-- Everything an instruction can do. -/
theorem exec_effect {i : Instr} {s t : State} (h : exec i s = .next t) : Effect i s t := by
  cases i with
  | nop => cases h; exact .code ..
  | parse => exact execParse_effect h
  | serialize => exact execSerialize_effect h
  | checksum => exact execChecksum_effect h
  | decode => exact execDecode_effect h
  | buildLogoff => cases h; exact .builtLogoff s
  | buildLogin => cases h; exact .builtLogin s
  | buildSubAll => cases h; exact .builtSubAll s
  | buildSubLoco hi lo => cases h; exact .builtSubLoco hi lo s
  | logoff xh => exact ignoreFrame_effect h
  | login xh => exact ignoreFrame_effect h
  | subscribeAll => exact ignoreFrame_effect h
  | subscribeOne => exact ignoreFrame_effect h
  | locoStatus => exact execLocoStatus_effect h

end Sys2Proof.Machine
end

