-- ==== Sys2Proof/Laws/PerInstr.lean ====
section
/-! SUPPORT. The family TableRow of statements about every instruction: its word matches its row of
spec/opcode_table.json. One lemma per constructor. -/

/-- The word the encoder gives an instruction, masked with its row's mask, is its row's match. -/
def Sys2Proof.Laws.TableRow.Statement (i : Sys2Proof.Instr) : Prop :=
  Sys2Proof.encode i &&& (Sys2Proof.tableRow i).2 = (Sys2Proof.tableRow i).1

namespace Sys2Proof.Laws

theorem TableRow.nop : TableRow.Statement .nop := by unfold TableRow.Statement; decide
theorem TableRow.parse : TableRow.Statement .parse := by unfold TableRow.Statement; decide
theorem TableRow.serialize : TableRow.Statement .serialize := by unfold TableRow.Statement; decide
theorem TableRow.checksum : TableRow.Statement .checksum := by unfold TableRow.Statement; decide
theorem TableRow.decode : TableRow.Statement .decode := by unfold TableRow.Statement; decide
theorem TableRow.buildLogoff : TableRow.Statement .buildLogoff := by unfold TableRow.Statement; decide
theorem TableRow.buildLogin : TableRow.Statement .buildLogin := by unfold TableRow.Statement; decide
theorem TableRow.buildSubAll : TableRow.Statement .buildSubAll := by unfold TableRow.Statement; decide
theorem TableRow.subscribeAll : TableRow.Statement .subscribeAll := by unfold TableRow.Statement; decide
theorem TableRow.subscribeOne : TableRow.Statement .subscribeOne := by unfold TableRow.Statement; decide
theorem TableRow.locoStatus : TableRow.Statement .locoStatus := by unfold TableRow.Statement; decide

theorem TableRow.buildSubLoco (hi lo : Byte) : TableRow.Statement (.buildSubLoco hi lo) := by
  unfold TableRow.Statement encode commandWord tableRow
  ext n hn
  interval_cases n <;> simp

theorem TableRow.logoff (xh : Byte) : TableRow.Statement (.logoff xh) := by
  unfold TableRow.Statement encode wireKey tableRow
  ext n hn
  interval_cases n <;> simp

theorem TableRow.login (xh : Byte) : TableRow.Statement (.login xh) := by
  unfold TableRow.Statement encode wireKey tableRow
  ext n hn
  interval_cases n <;> simp

end Sys2Proof.Laws
end

