-- ==== Sys2Proof/Laws/Step.lean ====
section
/-! SUPPORT. Everything a step can do, said once (`step_effect`), and the packaging of an invariant's proof. -/

namespace Sys2Proof.Machine

/-- The ways a step can change the state. -/
inductive StepEffect : State → State → Prop
  /-- The external reset (R211). -/
  | reset (s : State) (ms : List Move) (hm : s.moves = .reset :: ms) : StepEffect s (s.setMoves ms).resetBlock
  /-- A host access (R180). -/
  | host (s t : State) (a : Access) (ms : List Move) (hm : s.moves = .host a :: ms) (hf : s.fault = none)
      (h : AccessEffect (s.setMoves ms) t) : StepEffect s t
  /-- The engine's turn with no command pending. -/
  | idle (s s0 : State) (hs : s0 = s ∨ ∃ ms, s.moves = .engine :: ms ∧ s0 = s.setMoves ms) (hf : s0.fault = none)
      (hp : s0.pending = none) : StepEffect s s0
  /-- A word that is no command (R84). -/
  | badCommand (s s0 : State) (hs : s0 = s ∨ ∃ ms, s.moves = .engine :: ms ∧ s0 = s.setMoves ms)
      (hf : s0.fault = none) (w : Word) (hp : s0.pending = some w) (e : DecodeError)
      (hw : decodeCommand w = .error e) : StepEffect s (s0.setErr .badCommand).clearPending
  /-- A command (R180). -/
  | ran (s s0 u : State) (hs : s0 = s ∨ ∃ ms, s.moves = .engine :: ms ∧ s0 = s.setMoves ms) (hf : s0.fault = none)
      (w : Word) (hp : s0.pending = some w) (i : Instr) (hw : decodeCommand w = .ok i)
      (hu : exec (withFrameClass s0 i) s0 = .next u) : StepEffect s (endCommand u)

theorem endCommand_of_unfaulted {s : State} (h : s.fault = none) : endCommand s = s.clearPending := by
  simp [endCommand, h]

/-- `afterExec` answers a next state exactly when the instruction does. -/
theorem afterExec_eq_next {o : Host.Outcome State Fault Refusal} {t : State} :
    afterExec o = .next t ↔ ∃ u, o = .next u ∧ t = endCommand u := by
  cases o <;> simp [afterExec, eq_comm]

theorem engineStep_effect {s s0 t : State} (hs : s0 = s ∨ ∃ ms, s.moves = .engine :: ms ∧ s0 = s.setMoves ms)
    (hf : s0.fault = none) (h : engineStep s0 = .next t) : StepEffect s t := by
  unfold engineStep at h
  split at h
  · next hp => cases h; exact .idle s s0 hs hf hp
  · next w hp =>
    unfold fetch at h
    cases hw : decodeCommand w with
    | error e =>
      rw [hw] at h
      obtain ⟨u, hu, rfl⟩ := afterExec_eq_next.1 h
      cases hu
      rw [endCommand_of_unfaulted (by simpa using hf)]
      exact .badCommand s s0 hs hf w hp e hw
    | ok i =>
      rw [hw] at h
      obtain ⟨u, hu, rfl⟩ := afterExec_eq_next.1 h
      exact .ran s s0 u hs hf w hp i hw hu

/-- Everything a step can do. -/
theorem step_effect {s t : State} (h : step s = .next t) : StepEffect s t := by
  unfold step machineStep at h
  split at h
  · next ms hm => cases h; exact .reset s ms hm
  · next a ms hm =>
    split at h
    · cases h
    · next hf => cases h; exact .host s _ a ms hm hf (access_effect a _)
  · next ms hm =>
    split at h
    · cases h
    · next hf => exact engineStep_effect (.inr ⟨ms, hm, rfl⟩) (by simpa using hf) h
  · split at h
    · cases h
    · next hf => exact engineStep_effect (.inl rfl) hf h

/-- The packaging of an invariant: it is enough that reset establishes it, that the model's bookkeeping keeps it (taking a
move, clearing `PENDING`), and that every effect of a host access and of an instruction keeps it. -/
theorem step_keeps {Inv : State → Prop} (hreset : ∀ s, Inv s → Inv s.resetBlock)
    (hmoves : ∀ s ms, Inv s → Inv (s.setMoves ms)) (hclear : ∀ s, Inv s → Inv s.clearPending)
    (haccess : ∀ s t, Inv s → AccessEffect s t → Inv t) (hexec : ∀ i s t, Inv s → Effect i s t → Inv t)
    {s t : State} (hi : Inv s) (h : step s = .next t) : Inv t := by
  have start : ∀ {s0 : State}, (s0 = s ∨ ∃ ms, s.moves = .engine :: ms ∧ s0 = s.setMoves ms) → Inv s0 := by
    rintro s0 (rfl | ⟨ms, -, rfl⟩)
    · exact hi
    · exact hmoves s ms hi
  cases step_effect h with
  | reset ms hm => exact hreset _ (hmoves s ms hi)
  | host _ a ms hm hf h => exact haccess _ _ (hmoves s ms hi) h
  | idle _ hs => exact start hs
  | badCommand s0 hs => exact hclear _ (hexec .nop _ _ (start hs) (.code ..))
  | ran s0 u hs hf w hp i hw hu =>
    have hu' : Inv u := hexec _ _ _ (start hs) (exec_effect hu)
    unfold endCommand
    split
    · exact hu'
    · exact hclear u hu'

/-- An invariant that the state before and after a step share holds along every run: the induction, once. -/
theorem run_induction {Inv : State → Prop} (hstep : ∀ s t, Inv s → step s = .next t → Inv t) (s : State) (hs : Inv s)
    (n : Nat) (t : State) (h : Host.Core.run ⟨State, Fault, Refusal, step, State.reset⟩ n s = .next t) : Inv t := by
  induction n generalizing s with
  | zero => cases h; exact hs
  | succ n ih =>
    simp only [Host.Core.run] at h
    split at h
    · next s' hs' => exact ih s' (hstep s s' hs hs') h
    · cases h
    · cases h

end Sys2Proof.Machine
end

