-- ==== Sys2Proof/Machine/HostOps.lean ====
section
/-! DEFINITION. The host's notation of R91 and the pseudo-instructions of R92, as the moves they expand to. The host's
own control flow is outside the spec (R48), so `WAIT` takes the number of polls that find `BUSY` = 1 as an argument
(R221: it is "unbounded and not fixed"). -/

namespace Sys2Proof.Machine

/-- `st32 off, v` (R91). -/
def st32 (o : Nat) (v : Word) : List Move := [.host (.write32 o v)]

/-- `st8 off, v` (R91). -/
def st8 (o : Nat) (v : Byte) : List Move := [.host (.write8 o v)]

/-- `ld32 t, off` (R91). -/
def ld32 (o : Nat) : List Move := [.host (.read32 o)]

/-- `ld8 t, off` (R91). -/
def ld8 (o : Nat) : List Move := [.host (.read8 o)]

/-- `WAIT` (R92): `polls` reads of `STATUS` before the engine's turn, and one after it. -/
def waitMoves (polls : Nat) : List Move :=
  (List.replicate polls (ld32 0x004)).flatten ++ [.engine] ++ ld32 0x004

/-- `EXEC c` (R92): the `CMD` write, then `WAIT`. -/
def execMoves (i : Instr) (polls : Nat) : List Move := st32 0x000 (encode i) ++ waitMoves polls

/-- `st8 base+i, bi` for each byte, in order. -/
def storeMoves (o : Nat) : List Byte → List Move
  | [] => []
  | b :: bs => st8 o b ++ storeMoves (o + 1) bs

/-- `LOADRX b0, ..., b(n-1)` (R92). -/
def loadRx (bs : List Byte) : List Move := storeMoves rxBase bs ++ st32 0x008 (BitVec.ofNat 32 bs.length)

/-- `LOADPAY b0, ..., b(n-1)` (R92). -/
def loadPay (bs : List Byte) : List Move := storeMoves payBase bs ++ st32 0x01C (BitVec.ofNat 32 bs.length)

/-- `SETHDR h0, h1` (R92). -/
def setHdr (h0 h1 : Byte) : List Move := st32 0x014 (h0.setWidth 32 ||| (h1.setWidth 32 <<< 8))

/-- `SETXH x` (R92). -/
def setXh (x : Byte) : List Move := st32 0x018 (0x100#32 ||| x.setWidth 32)

/-- `CLRXH` (R92). -/
def clrXh : List Move := st32 0x018 0#32

/-- `SETCK c` (R92). -/
def setCk (c : Byte) : List Move := st32 0x020 (0x100#32 ||| c.setWidth 32)

/-- `CLRCK` (R92). -/
def clrCk : List Move := st32 0x020 0#32

end Sys2Proof.Machine
end

