-- ==== Sys2Proof/Tests/Slice0.lean ====
section
/-! SUPPORT. The model's own tests. Expected values come from the spec: the encodings of 30_encoding.md, the examples and
vectors of 95_test_vectors.md (named V<n>, W<n> as there). The second half gives a witness for the hypotheses of each
obligation. -/

namespace Sys2Proof.Tests

open Sys2Proof.Machine

/-! ### Helpers -/

/-- Reset, with a frame in the frame registers and its payload in `PAY`. -/
def frameState (h0 h1 : Byte) (xh ck : Option Byte) (pay : List Byte) : State :=
  { State.reset with
    frame := { State.reset.frame with
      hdr0 := h0, hdr1 := h1, xh := xh.getD 0#8, xhValid := xh.isSome, ck := ck.getD 0#8, ckValid := ck.isSome
      plen := BitVec.ofNat 16 pay.length }
    mem := Memory.writeBytes [] payBase pay }

/-- Reset, with a datagram in `RX`. -/
def rxState (d : List Byte) : State :=
  { State.reset with rxLen := BitVec.ofNat 16 d.length, mem := Memory.writeBytes [] rxBase d }

/-- A frame of the class LOCO_STATUS. -/
def statusState (pay : List Byte) : State := frameState 0x40#8 0x00#8 (some 0xEF#8) none pay

/-- `f` of the state after the step that runs table word `w`; none if that step stops. -/
def after {α : Type} (s : State) (w : Nat) (f : State → α) : Option α :=
  match step (s.withFetchWord 32 w) with
  | .next t => some (f t)
  | .fault _ => none
  | .refused _ => none

/-- What DECODE leaves, as numbers. -/
structure Record where
  addr : Nat
  mode : Nat
  sel : Nat
  speed : Nat
  forward : Bool
  count : Nat
  fnWord0 : Nat
  err : Nat
deriving DecidableEq, Repr

/-- What DECODE leaves in a state. -/
def record (t : State) : Record where
  addr := t.status.addr.toNat
  mode := (modeBits t.status.mode).toNat
  sel := t.status.sel.toNat
  speed := t.status.speed.toNat
  forward := dirBit t.status.dir
  count := t.status.fnCnt.toNat
  fnWord0 := (t.status.fn.extractLsb' 0 32).toNat
  err := (errByte t.flags.err).toNat

/-! ### Well-formedness: each check refuses an ill-formed term -/

theorem test_asm_hi_out_of_range : (AsmLine.buildSubLoco 256 0).wellFormed = false ∧
    assemble (.buildSubLoco 256 0) = none := by decide

theorem test_asm_lo_out_of_range : (AsmLine.buildSubLoco 0 256).wellFormed = false ∧
    assemble (.buildSubLoco 0 256) = none := by decide

theorem test_asm_in_range : (AsmLine.buildSubLoco 255 255).wellFormed = true ∧
    assemble (.buildSubLoco 255 255) = some (.buildSubLoco 0xFF#8 0xFF#8) := by decide

theorem test_params_pay_too_small : ({ Params.default with payMax := 3, fnExtMax := 0 } : Params).legal = false := by
  decide

theorem test_params_pay_too_large : ({ Params.default with payMax := 4091 } : Params).legal = false := by decide

theorem test_params_ext_too_large : ({ Params.default with fnExtMax := 246 } : Params).legal = false := by decide

theorem test_params_edges : ({ Params.default with payMax := 4, fnExtMax := 0 } : Params).legal = true ∧
    ({ Params.default with payMax := 4090, fnExtMax := 1023 } : Params).legal = true ∧
    ({ Params.default with payMax := 4090, fnExtMax := 1024 } : Params).legal = false := by decide

/-! ### Decoding: words written out from 30_encoding.md -/

/-- R81 and spec/opcode_table.json: `OP` in bits 7:0, `A0` in 15:8, `A1` in 23:16. -/
theorem test_decode_commands :
    decodeTableWord 32 0x00000000 = some .nop ∧ decodeTableWord 32 0x00000001 = some .parse ∧
    decodeTableWord 32 0x00000002 = some .serialize ∧ decodeTableWord 32 0x00000003 = some .checksum ∧
    decodeTableWord 32 0x00000004 = some .decode ∧ decodeTableWord 32 0x00000010 = some .buildLogoff ∧
    decodeTableWord 32 0x00000011 = some .buildLogin ∧ decodeTableWord 32 0x00000012 = some .buildSubAll ∧
    decodeTableWord 32 0x00030013 = some (.buildSubLoco 0x00#8 0x03#8) ∧
    decodeTableWord 32 0x00000113 = some (.buildSubLoco 0x01#8 0x00#8) := by decide

/-- R88 and R89: `HDR0` in bits 7:0, `HDR1` in 15:8, `XH` in 23:16, `XH_VALID` in bit 24. -/
theorem test_decode_wire_classes :
    decodeTableWord 32 0x00000030 = some (.logoff 0x00#8) ∧ decodeTableWord 32 0x00AB0110 = some (.login 0xAB#8) ∧
    decodeTableWord 32 0x01000050 = some .subscribeAll ∧ decodeTableWord 32 0x01E30040 = some .subscribeOne ∧
    decodeTableWord 32 0x01EF0040 = some .locoStatus := by decide

/-- V91 to V94: reserved words. -/
theorem test_decode_reserved :
    decodeCommand 0x00000005#32 = .error .unknownOpcode ∧ decodeCommand 0x0000000F#32 = .error .unknownOpcode ∧
    decodeCommand 0x00000014#32 = .error .unknownOpcode ∧ decodeCommand 0x000000FF#32 = .error .unknownOpcode ∧
    decodeCommand 0x00000100#32 = .error .operandNotZero ∧ decodeCommand 0x00010001#32 = .error .operandNotZero ∧
    decodeCommand 0x01000000#32 = .error .rsvdNotZero ∧ decodeCommand 0x01000013#32 = .error .rsvdNotZero := by
  decide

/-- No row's key matches these: LOGOFF's header with an extended header, LOGIN's bytes swapped, 0xE3 without one. -/
theorem test_decode_no_class :
    decodeWire 0x1000030#25 = none ∧ decodeWire 0x0001001#25 = none ∧ decodeWire 0x0E30040#25 = none := by decide

theorem test_decode_truncated : decodeBytes [0x00#8, 0x00#8, 0x00#8] = .error .truncated := by decide

/-! ### One step of each instruction -/

/-- V90: the record of the last result is replaced, and `CMD` reads back the word. -/
theorem test_nop :
    after { State.reset with flags := { State.reset.flags with err := .badCommand } } 0x00000000
      (fun t => (t.flags.err, t.pending, t.cmd)) = some (.ok, none, 0#32) := by decide

/-- V7: the length field is not checked, and the checksum 0x9A is not the fold 0x2E. -/
theorem test_parse_mismatch :
    after (rxState [0xFF#8, 0xFF#8, 0x12#8, 0x34#8, 0x56#8, 0x78#8, 0x9A#8]) 0x00000001
      (fun t => (t.frame, Memory.read t.mem payBase, t.ckCalc, t.flags.cksumOk)) =
      some ({ len := 0xFFFF#16, hdr0 := 0x12#8, hdr1 := 0x34#8, xh := 0x56#8, xhValid := true, plen := 1#16,
              ck := 0x9A#8, ckValid := true }, some 0x78#8, 0x2E#8, false) := by decide

/-- V3: with five bytes the extended header and the checksum are the same byte. -/
theorem test_parse_five_bytes :
    after (rxState [0x05#8, 0x00#8, 0x40#8, 0x00#8, 0xEF#8]) 0x00000001
      (fun t => (t.frame.xh, t.frame.ck, t.frame.plen, t.ckCalc, idleStatusWord t.flags)) =
      some (0xEF#8, 0xEF#8, 0#16, 0xEF#8, 0x100#32) := by decide

/-- V22: a supplied checksum is emitted as it is, and `CK_CALC` is the fold. -/
theorem test_serialize_supplied :
    after (frameState 0x12#8 0x34#8 (some 0x56#8) (some 0x99#8) [0x01#8, 0x02#8, 0x03#8]) 0x00000002
      (fun t => (Memory.readBytes t.mem txBase 9, t.txLen, t.frame.len, t.ckCalc)) =
      some (some [0x09#8, 0x00#8, 0x12#8, 0x34#8, 0x56#8, 0x01#8, 0x02#8, 0x03#8, 0x99#8], 9#16, 9#16, 0x56#8) := by
  decide

/-- V23: without an extended header neither it nor the supplied checksum is emitted. -/
theorem test_serialize_short :
    after (frameState 0x30#8 0x00#8 none (some 0x99#8) []) 0x00000002
      (fun t => (Memory.readBytes t.mem txBase 4, t.txLen, t.ckCalc)) =
      some (some [0x04#8, 0x00#8, 0x30#8, 0x00#8], 4#16, 0x00#8) := by decide

/-- V32: the supplied 0x10 is the fold. -/
theorem test_checksum_ok :
    after (frameState 0x40#8 0x00#8 (some 0xE3#8) (some 0x10#8) [0xF0#8, 0x00#8, 0x03#8]) 0x00000003
      (fun t => (t.ckCalc, idleStatusWord t.flags)) = some (0x10#8, 0x100#32) := by decide

/-- V30: with no checksum supplied `CKSUM_OK` is 0, although the fold is 0. -/
theorem test_checksum_not_supplied :
    after (frameState 0x50#8 0x00#8 (some 0x00#8) none [0x01#8, 0x00#8, 0x01#8]) 0x00000003
      (fun t => (t.ckCalc, idleStatusWord t.flags)) = some (0x00#8, 0x000#32) := by decide

/-- V50. -/
theorem test_decode_status :
    after (statusState [0x00#8, 0x03#8, 0x04#8, 0x85#8, 0x13#8, 0x05#8]) 0x00000004 record =
      some ⟨3, 3, 4, 4, true, 13, 0x000000A7, 0⟩ := by decide +kernel

/-- V54: Unknown mode: the record is written and the code is 3. -/
theorem test_decode_unknown_mode :
    after (statusState [0x12#8, 0x34#8, 0x03#8, 0xFF#8, 0x1F#8]) 0x00000004 record =
      some ⟨4660, 0, 3, 0, true, 5, 0x0000001F, 3⟩ := by decide +kernel

/-- V40. -/
theorem test_build_logoff :
    after State.reset 0x00000010 (fun t => t.frame) =
      some { len := 4#16, hdr0 := 0x30#8, hdr1 := 0x00#8, xh := 0#8, xhValid := false, plen := 0#16, ck := 0#8,
             ckValid := false } := by decide

/-- V41. -/
theorem test_build_login :
    after (statusState [0x01#8]) 0x00000011 (fun t => (t.frame.hdr0, t.frame.hdr1, t.frame.xhValid, t.frame.plen)) =
      some (0x10#8, 0x01#8, false, 0#16) := by decide

/-- V42. -/
theorem test_build_sub_all :
    after State.reset 0x00000012 (fun t => (t.frame.hdr0, t.frame.xh, t.frame.len, Memory.readBytes t.mem payBase 3)) =
      some (0x50#8, 0x00#8, 9#16, some [0x01#8, 0x00#8, 0x01#8]) := by decide

/-- V46: `hi` is bits 15:8 of the word and `lo` bits 23:16. -/
theorem test_build_sub_loco :
    after State.reset 0x000F2713 (fun t => (t.frame.hdr0, t.frame.xh, t.frame.len, Memory.readBytes t.mem payBase 3)) =
      some (0x40#8, 0xE3#8, 9#16, some [0xF0#8, 0x27#8, 0x0F#8]) := by decide

/-- V83's rule for each ignored class: `UNEXPECTED_FRAME_TYPE`. -/
theorem test_ignored_classes :
    after State.reset 0x00000030 (fun t => t.flags.err) = some .unexpectedFrameType ∧
    after State.reset 0x00000110 (fun t => t.flags.err) = some .unexpectedFrameType ∧
    after State.reset 0x01000050 (fun t => t.flags.err) = some .unexpectedFrameType ∧
    after (statusState [0xF0#8, 0x00#8, 0x03#8]) 0x01E30040 (fun t => t.flags.err) = some .unexpectedFrameType := by
  decide

/-- V69: the same record from the wire-class row as from DECODE. -/
theorem test_loco_status :
    after (statusState [0x27#8, 0x0F#8, 0x02#8, 0x9F#8, 0x0A#8]) 0x01EF0040 record =
      some ⟨9999, 2, 2, 28, true, 5, 0x00000014, 0⟩ := by decide +kernel

/-- V84. -/
theorem test_loco_status_short :
    after (statusState [0x00#8, 0x01#8, 0x04#8]) 0x01EF0040 (fun t => (t.flags.err, t.flags.sValid)) =
      some (.shortStatusPayload, false) := by decide

/-- V76: `SOURCE_LITERAL`. -/
theorem test_source_literal : (address .sourceLiteral 0x01#8 0x64#8).toNat = 100 ∧
    (address .maskedShift 0x01#8 0x64#8).toNat = 356 ∧ (address .maskedShift 0xC0#8 0x64#8).toNat = 100 := by decide

/-- V78: `FN_EXT_MAX` = 1 cuts three extension bytes to one. -/
theorem test_fn_trunc :
    after { statusState [0x00#8, 0x01#8, 0x04#8, 0x80#8, 0x10#8, 0xFF#8, 0x01#8, 0x80#8] with
        params := { Params.default with fnExtMax := 1 } } 0x00000004
      (fun t => (t.status.fnCnt, (t.status.fn.extractLsb' 0 32).toNat, t.flags.fnTrunc)) =
      some (13#16, 0x00001FE1, true) := by decide +kernel

/-! ### Host accesses: V100 to V110 -/

theorem test_params_read : (access (.read32 0x080) State.reset).readData = some 0x010000FA#32 ∧
    (access (.read32 0x084) State.reset).readData = some 0x000000F5#32 := by decide

theorem test_host_faults :
    (access (.write8 0x014 0x40#8) State.reset).fault = some .badWidth ∧
    (access (.read32 0x1001) State.reset).fault = some .misaligned ∧
    (access (.read32 0x028) State.reset).fault = some .unmapped ∧
    (access (.read8 0x1100) State.reset).fault = some .unmapped ∧
    (access (.write32 0x004 0#32) State.reset).fault = some .writeRo ∧
    (access (.write8 0x2000 1#8) State.reset).fault = some .writeRo ∧
    (access (.read8 0x3000) State.reset).fault = some .unwrittenRead ∧
    (access (.read32 0x030) { State.reset with pending := some 4#32 }).fault = some .busyAccess := by decide

/-- R59: `st8` stores its byte at its offset in `RX` and in `PAY`, and the neighbours still hold no value. -/
theorem test_store_byte :
    (access (.write8 0x1001 0xA5#8) State.reset).mem = [(0x1001, 0xA5#8)] ∧
    (access (.write8 0x30F9 0x7B#8) State.reset).mem = [(0x30F9, 0x7B#8)] := by decide

/-- R58: `ld8` returns a byte `TX` holds, in bits 7:0. -/
theorem test_load_byte :
    (access (.read8 0x2001) { State.reset with mem := [(0x2001, 0x80#8)] }).readData = some 0x80#32 := by decide

/-! ### The host's pseudo-instructions -/

/-- R92: LOADRX stores the bytes from 0x1000 on and then the count; SETXH sets bit 8; SETHDR puts h1 in bits 15:8. -/
theorem test_pseudo_loads :
    loadRx [0x0C#8, 0x00#8] =
      [.host (.write8 0x1000 0x0C#8), .host (.write8 0x1001 0x00#8), .host (.write32 0x008 2#32)] ∧
    loadPay [0xF0#8] = [.host (.write8 0x3000 0xF0#8), .host (.write32 0x01C 1#32)] ∧
    setXh 0xE3#8 = [.host (.write32 0x018 0x1E3#32)] ∧ clrXh = [.host (.write32 0x018 0#32)] ∧
    setCk 0x7B#8 = [.host (.write32 0x020 0x17B#32)] ∧ clrCk = [.host (.write32 0x020 0#32)] ∧
    setHdr 0x10#8 0x01#8 = [.host (.write32 0x014 0x0110#32)] := by decide

/-- R92: EXEC is the word's `CMD` write and then WAIT, here with one poll before the engine's turn. -/
theorem test_pseudo_exec :
    execMoves (.buildSubLoco 0x27#8 0x0F#8) 1 =
      [.host (.write32 0x000 0x000F2713#32), .host (.read32 0x004), .engine, .host (.read32 0x004)] := by decide

/-! ### Witnesses: states and operands that meet the hypotheses of the obligations -/

/-- Reset, with a pending word. -/
def pend (w : Word) : State := { State.reset with cmd := w, pending := some w }

/-- Buffer bytes `b 0`, `b 1`, ... from offset `o` on. -/
def fill (o n : Nat) (b : Nat → Byte) : Memory := Memory.writeBytes [] o ((List.range n).map b)

theorem holds_fill (o n : Nat) (b : Nat → Byte) : holdsBytes (fill o n b) o n b := by
  intro i hi
  rw [fill, Memory.read_writeBytes, if_pos (by simp; omega)]
  simp [hi]

/-- Reset under the parameters `params`, with a LOCO_STATUS frame of `n` payload bytes `b 0`, `b 1`, ... -/
def payState (params : Params) (n : Nat) (b : Nat → Byte) : State :=
  { State.reset with
    params := params
    frame := { State.reset.frame with hdr0 := 0x40#8, xh := 0xEF#8, xhValid := true, plen := BitVec.ofNat 16 n }
    mem := fill payBase n b }

theorem payState_plen (params : Params) {n : Nat} (hn : n < 65536) (b : Nat → Byte) :
    (payState params n b).frame.plen.toNat = n := by
  show (BitVec.ofNat 16 n).toNat = n
  rw [BitVec.toNat_ofNat]
  omega

theorem engineNext_idle {s : State} (hf : s.fault = none) (hm : s.moves = []) : engineNext s s := ⟨hf, .inl ⟨hm, rfl⟩⟩

theorem engineNext_turn {s : State} {ms : List Move} (hf : s.fault = none) (hm : s.moves = .engine :: ms) :
    engineNext s { s with moves := ms } := ⟨hf, .inr ⟨ms, hm, rfl⟩⟩

theorem witness_CommandWordHasOneReading :
    decodeCommand 0x00000000#32 = .ok .nop ∧ decodeCommand 0x00FFFF13#32 = .ok (.buildSubLoco 0xFF#8 0xFF#8) := by decide

theorem witness_WireKeyHasOneReading :
    decodeWire 0x0FF0030#25 = some (.logoff 0xFF#8) ∧ decodeWire 0x0000110#25 = some (.login 0x00#8) ∧
    decodeWire 0x1000050#25 = some .subscribeAll ∧ decodeWire 0x1E30040#25 = some .subscribeOne ∧
    decodeWire 0x1EF0040#25 = some .locoStatus := by decide

/-- A pending word with the engine next, both ways, and each clause at its edges. -/
theorem witness_ReservedWordRaisesBadCommand :
    (∀ w, engineNext (pend w) (pend w) ∧ (pend w).pending = some w) ∧
    (∀ w, engineNext { pend w with moves := [.engine] } (pend w)) ∧
    (0x01000000#32).toNat / 0x1000000 ≠ 0 ∧ (0xFF000013#32).toNat / 0x1000000 ≠ 0 ∧
    (0x05 ≤ (0x05#32).toNat % 0x100 ∧ (0x05#32).toNat % 0x100 ≤ 0x0F) ∧
    (0x05 ≤ (0x0F#32).toNat % 0x100 ∧ (0x0F#32).toNat % 0x100 ≤ 0x0F) ∧
    0x14 ≤ (0x14#32).toNat % 0x100 ∧ 0x14 ≤ (0xFF#32).toNat % 0x100 ∧
    ((0x00000100#32).toNat % 0x100 ≠ 0x13 ∧ (0x00000100#32).toNat / 0x100 % 0x10000 ≠ 0) ∧
    ((0x00FFFF12#32).toNat % 0x100 ≠ 0x13 ∧ (0x00FFFF12#32).toNat / 0x100 % 0x10000 ≠ 0) ∧
    State.reset.pending = none :=
  ⟨fun _ => ⟨engineNext_idle rfl rfl, rfl⟩, fun _ => engineNext_turn rfl rfl, by decide, by decide, by decide,
    by decide, by decide, by decide, by decide, by decide, rfl⟩

/-- NOP ends unfaulted; PARSE of five bytes with no value does not. -/
theorem witness_StepRunsPendingCommand :
    (engineNext (pend 0#32) (pend 0#32) ∧ (pend 0#32).pending = some 0#32 ∧ decodeCommand 0#32 = .ok .nop ∧
      ∃ t, exec .nop (pend 0#32) = .next t ∧ t.fault = none) ∧
    (let s := { pend 1#32 with rxLen := 5#16 };
      engineNext s s ∧ s.pending = some 1#32 ∧ decodeCommand 1#32 = .ok .parse ∧
        ∃ t, exec .parse s = .next t ∧ t.fault ≠ none) :=
  ⟨⟨engineNext_idle rfl rfl, rfl, rfl, _, rfl, rfl⟩, engineNext_idle rfl rfl, rfl, rfl, _, rfl, by decide⟩

theorem witness_WireClassRefinesDecode :
    frameClass (frameState 0x30#8 0x00#8 none none []).frame = some (.logoff 0x00#8) ∧
    frameClass (frameState 0x10#8 0x01#8 none none []).frame = some (.login 0x00#8) ∧
    frameClass (frameState 0x50#8 0x00#8 (some 0x00#8) none [0x01#8]).frame = some .subscribeAll ∧
    frameClass (frameState 0x40#8 0x00#8 (some 0xE3#8) none [0xF0#8]).frame = some .subscribeOne ∧
    frameClass (statusState []).frame = some .locoStatus := by decide

theorem witness_StepRunsPlacedWord :
    decodeTableWord 32 0x00000001 = some .parse ∧ decodeTableWord 32 0x01EF0040 = some .locoStatus ∧
    decodeTableWord 25 0x01EF0040 = some .locoStatus := by decide

theorem witness_UnfaultedStepAnswers : State.reset.fault = none ∧ (pend 0xFFFFFFFF#32).fault = none := by decide

theorem witness_StepRunsHostAccess :
    let s := { State.reset with moves := [.host (.read32 0x004), .engine] }
    s.moves = .host (.read32 0x004) :: [.engine] ∧ s.fault = none := ⟨rfl, rfl⟩

theorem witness_EngineTurnEndsCommand :
    engineNext State.reset State.reset ∧ engineNext { pend 4#32 with moves := [.engine] } (pend 4#32) :=
  ⟨engineNext_idle rfl rfl, engineNext_turn rfl rfl⟩

/-- A recorded fault with nothing to come, and with a reset to come, which does give a next state. -/
theorem witness_HostFaultIsSticky :
    (State.reset.setFault .busyAccess).fault = some .busyAccess ∧
    (∀ ms, (State.reset.setFault .busyAccess).moves ≠ .reset :: ms) ∧
    ∃ t, step { State.reset.setFault .busyAccess with moves := [.reset] } = .next t :=
  ⟨rfl, fun _ h => (List.cons_ne_nil _ _ h.symm).elim, _, rfl⟩

theorem witness_ParseRejectsByLength :
    ({ State.reset with rxLen := 4#16 } : State).rxLen.toNat < 5 ∧ State.reset.rxLen.toNat < 5 ∧
    State.reset.params.frameMax < ({ State.reset with rxLen := 257#16 } : State).rxLen.toNat ∧
    State.reset.params.frameMax < ({ State.reset with rxLen := 0xFFFF#16 } : State).rxLen.toNat := by decide

/-- Every datagram length from the shortest to the longest at the default parameters: for ParseExtractsFields and
SerializeOfParseReemits. -/
theorem witness_ParseExtractsFields (d : Nat → Byte) (n : Nat) (h5 : 5 ≤ n) (hn : n ≤ 256) :
    let s := { State.reset with rxLen := BitVec.ofNat 16 n, mem := fill rxBase n d }
    s.params.legal = true ∧ 5 ≤ s.rxLen.toNat ∧ s.rxLen.toNat ≤ s.params.frameMax ∧
      holdsBytes s.mem rxBase s.rxLen.toNat d := by
  have e : (BitVec.ofNat 16 n).toNat = n := by simp; omega
  refine ⟨rfl, ?_, ?_, ?_⟩
  · show 5 ≤ (BitVec.ofNat 16 n).toNat; omega
  · show (BitVec.ofNat 16 n).toNat ≤ 256; omega
  · show holdsBytes (fill rxBase n d) rxBase (BitVec.ofNat 16 n).toNat d
    rw [e]; exact holds_fill _ _ _

/-- The first and the last byte each command reads has no value. -/
theorem witness_CommandReadOfUnwrittenByteFaults :
    (let s := { State.reset with rxLen := 5#16 };
      5 ≤ s.rxLen.toNat ∧ s.rxLen.toNat ≤ s.params.frameMax ∧ 4 < s.rxLen.toNat ∧
        Memory.read s.mem (rxBase + 4) = none) ∧
    (let s := { State.reset with frame := { State.reset.frame with plen := 250#16, xhValid := true } };
      s.frame.plen.toNat ≤ s.params.payMax ∧ s.frame.xhValid = true ∧ 249 < s.frame.plen.toNat ∧
        Memory.read s.mem (payBase + 249) = none) ∧
    (let s := { payState Params.default 4 (fun _ => 0#8) with mem := [] };
      decodesStatus .decode s ∧ decodesStatus .locoStatus s ∧ 4 ≤ s.frame.plen.toNat ∧
        s.frame.plen.toNat ≤ s.params.payMax ∧ 0 < min s.frame.plen.toNat (5 + s.params.fnExtMax) ∧
        Memory.read s.mem (payBase + 0) = none) := by
  refine ⟨by decide, by decide, .inl ⟨rfl, rfl, rfl, rfl, rfl⟩, .inr ⟨rfl, rfl⟩, by decide, by decide, by decide, rfl⟩

/-- R102's examples, W1. -/
theorem test_fold : fold 0xE3#8 [0xF0#8, 0x00#8, 0x03#8] = 0x10#8 ∧
    fold 0xEF#8 [0x00#8, 0x03#8, 0x04#8, 0x85#8, 0x13#8, 0x05#8] = 0x7B#8 ∧ fold 0x56#8 [] = 0x56#8 := by decide

/-- A frame of each of the three errors: `PLEN` = 251; a payload without an extended header; neither. -/
theorem witness_SerializeAndChecksumErrorsInOrder :
    (let f := (frameState 0#8 0#8 none none []).frame;
      State.reset.params.payMax < ({ f with plen := 251#16 } : Frame).plen.toNat ∧
      (251#16).toNat = State.reset.params.payMax + 1) ∧
    (let s := frameState 0x30#8 0x00#8 none none [0x01#8];
      s.frame.plen.toNat ≤ s.params.payMax ∧ 0 < s.frame.plen.toNat ∧ s.frame.xhValid = false) ∧
    (State.reset.frame.plen.toNat ≤ State.reset.params.payMax ∧ State.reset.frame.plen.toNat = 0 ∧
      State.reset.frame.xhValid = false) := by decide

/-- An empty and a full payload with an extended header, and the frame without one. -/
theorem witness_SerializeEmitsDatagram (p : Nat → Byte) :
    (∀ n, n = 0 ∨ n = 250 →
      (payState Params.default n p).params.legal = true ∧
      (payState Params.default n p).frame.plen.toNat ≤ (payState Params.default n p).params.payMax ∧
      (payState Params.default n p).frame.xhValid = true ∧
      holdsBytes (payState Params.default n p).mem payBase (payState Params.default n p).frame.plen.toNat p) ∧
    State.reset.frame.plen.toNat = 0 ∧ State.reset.frame.xhValid = false := by
  refine ⟨?_, by decide, rfl⟩
  intro n hn
  have e : (payState Params.default n p).frame.plen.toNat = n := payState_plen _ (by omega) p
  refine ⟨rfl, ?_, rfl, by rw [e]; exact holds_fill _ _ _⟩
  rw [e]
  show n ≤ 250
  omega

theorem witness_ChecksumComparesFold (p : Nat → Byte) :
    (payState Params.default 250 p).frame.plen.toNat ≤ (payState Params.default 250 p).params.payMax ∧
    (payState Params.default 250 p).frame.xhValid = true ∧
    holdsBytes (payState Params.default 250 p).mem payBase (payState Params.default 250 p).frame.plen.toNat p :=
  ((witness_SerializeEmitsDatagram p).1 250 (.inr rfl)).2

/-- A valid frame of each kind, and an `RX` that is the copy of its `TX`. -/
theorem witness_ParseOfSerializeRoundTrips :
    (let s := frameState 0x12#8 0x34#8 (some 0x56#8) none [];
      s.params.legal = true ∧ validFrame s ∧ holdsBytes s.mem payBase s.frame.plen.toNat (fun _ => 0#8) ∧
      s.frame.xhValid = true ∧ ∃ t, exec .serialize s = .next t ∧
        ∀ i, i < t.txLen.toNat →
          Memory.read (Memory.writeBytes [] rxBase [0x06#8, 0x00#8, 0x12#8, 0x34#8, 0x56#8, 0x56#8]) (rxBase + i) =
            Memory.read t.mem (txBase + i)) ∧
    (let s := State.reset;
      s.params.legal = true ∧ validFrame s ∧ holdsBytes s.mem payBase s.frame.plen.toNat (fun _ => 0#8) ∧
      s.frame.xhValid = false ∧ ∃ t, exec .serialize s = .next t ∧
        ∀ i, i < t.txLen.toNat →
          Memory.read (Memory.writeBytes [] rxBase [0x04#8, 0x00#8, 0x00#8, 0x00#8]) (rxBase + i) =
            Memory.read t.mem (txBase + i)) :=
  ⟨⟨by decide, ⟨by decide, .inl rfl⟩, fun _ h => absurd h (Nat.not_lt_zero _), rfl, _, rfl, by decide⟩,
    by decide, ⟨by decide, .inl rfl⟩, fun _ h => absurd h (Nat.not_lt_zero _), rfl, _, rfl, by decide⟩

/-- The smallest parameters, where the subscribe builders' three bytes still fit; also for BuiltDatagrams. -/
theorem witness_BuildEqualsHostWrites :
    State.reset.params.legal = true ∧ State.reset.pending = none ∧
    ({ payMax := 4, fnExtMax := 0, addressFormula := .sourceLiteral, unknownModeSpeed := .draw } : Params).legal =
      true := by decide

theorem witness_DecodeErrorsInOrder :
    (let s := { statusState [] with frame := { (statusState []).frame with plen := 251#16 } };
      s.params.payMax < s.frame.plen.toNat) ∧
    (let s := frameState 0x40#8 0x00#8 none none [0x00#8, 0x00#8];
      s.frame.plen.toNat ≤ s.params.payMax ∧ 0 < s.frame.plen.toNat ∧ s.frame.xhValid = false) ∧
    (validFrame State.reset ∧ ¬ holdsStatusClass State.reset.frame) ∧
    (let s := statusState [0x00#8, 0x00#8, 0x00#8];
      validFrame s ∧ holdsStatusClass s.frame ∧ s.frame.plen.toNat < 4) :=
  ⟨by decide, by decide, ⟨⟨by decide, .inl rfl⟩, fun h => absurd h.1 (by decide)⟩,
    ⟨by decide, .inr rfl⟩, ⟨rfl, rfl, rfl, rfl⟩, by decide⟩

theorem witness_WireClassCodes :
    Instr.isCommand (.logoff 0x00#8) = false ∧ Instr.isCommand .locoStatus = false ∧
    State.reset.params.payMax < (251#16).toNat ∧
    (let s := frameState 0x30#8 0x00#8 none none [0x01#8];
      s.frame.plen.toNat ≤ s.params.payMax ∧ 0 < s.frame.plen.toNat ∧ s.frame.xhValid = false) ∧
    validFrame (frameState 0x30#8 0x00#8 none none []) ∧ validFrame (statusState [0x00#8, 0x00#8, 0x00#8]) ∧
    (statusState [0x00#8, 0x00#8, 0x00#8]).frame.plen.toNat < 4 :=
  ⟨rfl, rfl, by decide, by decide, ⟨by decide, .inl rfl⟩, ⟨by decide, .inr rfl⟩, by decide⟩

/-- The hypotheses of the two statements on DECODE's record, for any legal parameters and any payload that fits. -/
theorem payState_decodes (params : Params) (hl : params.legal = true) (n : Nat) (b : Nat → Byte) (h4 : 4 ≤ n)
    (hn : n ≤ params.payMax) :
    decodesStatus .decode (payState params n b) ∧ decodesStatus .locoStatus (payState params n b) ∧
    (payState params n b).params.legal = true ∧ 4 ≤ (payState params n b).frame.plen.toNat ∧
    (payState params n b).frame.plen.toNat ≤ (payState params n b).params.payMax ∧
    (payState params n b).frame.plen.toNat = n ∧
    holdsBytes (payState params n b).mem payBase
      (min (payState params n b).frame.plen.toNat (5 + (payState params n b).params.fnExtMax)) b := by
  have hp := (Params.legal_iff.1 hl).2.1
  have e : (payState params n b).frame.plen.toNat = n := payState_plen _ (by omega) b
  refine ⟨.inl ⟨rfl, rfl, rfl, rfl, rfl⟩, .inr ⟨rfl, rfl⟩, hl, by omega, by rw [e]; exact hn, e, fun i hi => ?_⟩
  exact holds_fill payBase n b i (by omega)

/-- Every selector, under both formulas and both choices of `UNKNOWN_MODE_SPEED`, with four payload bytes. -/
theorem witness_DecodeWritesRecord (f : AddressFormula) (u : UnknownModeSpeed) (p2 : Byte) :
    let params : Params := { Params.default with addressFormula := f, unknownModeSpeed := u }
    let s := payState params 4 (fun i => if i = 2 then p2 else 0xFF#8)
    decodesStatus .decode s ∧ decodesStatus .locoStatus s ∧ s.params.legal = true ∧ 4 ≤ s.frame.plen.toNat ∧
      s.frame.plen.toNat ≤ s.params.payMax ∧
      holdsBytes s.mem payBase (min s.frame.plen.toNat (5 + s.params.fnExtMax)) (fun i => if i = 2 then p2 else 0xFF#8) ∧
      s.params.addressFormula = f ∧ s.params.unknownModeSpeed = u := by
  obtain ⟨h1, h2, h3, h4, h5, -, h6⟩ := payState_decodes { Params.default with addressFormula := f, unknownModeSpeed := u }
    rfl 4 (fun i => if i = 2 then p2 else 0xFF#8) (Nat.le_refl 4) (by decide : 4 ≤ 250)
  exact ⟨h1, h2, h3, h4, h5, h6, rfl, rfl⟩

/-- No function byte, the legacy byte only, all 245 extension bytes, and a truncated payload. -/
theorem witness_DecodeWritesFunctions (b : Nat → Byte) :
    (payState Params.default 4 b).frame.plen.toNat < 5 ∧ 5 ≤ (payState Params.default 5 b).frame.plen.toNat ∧
    (payState Params.default 250 b).frame.plen.toNat - 5 = (payState Params.default 250 b).params.fnExtMax ∧
    (let s := payState { Params.default with fnExtMax := 1 } 7 b;
      s.params.fnExtMax < s.frame.plen.toNat - 5) ∧
    (∀ n, n = 4 ∨ n = 5 ∨ n = 250 → decodesStatus .decode (payState Params.default n b) ∧
      holdsBytes (payState Params.default n b).mem payBase
        (min (payState Params.default n b).frame.plen.toNat (5 + Params.default.fnExtMax)) b) := by
  refine ⟨(by decide : 4 < 5), Nat.le_refl 5, rfl, (by decide : 1 < 2), ?_⟩
  rintro n (rfl | rfl | rfl)
  · exact ⟨.inl ⟨rfl, rfl, rfl, rfl, rfl⟩,
      (payState_decodes Params.default rfl 4 b (by decide) (by decide)).2.2.2.2.2.2⟩
  · exact ⟨.inl ⟨rfl, rfl, rfl, rfl, rfl⟩,
      (payState_decodes Params.default rfl 5 b (by decide) (by decide)).2.2.2.2.2.2⟩
  · exact ⟨.inl ⟨rfl, rfl, rfl, rfl, rfl⟩,
      (payState_decodes Params.default rfl 250 b (by decide) (by decide)).2.2.2.2.2.2⟩

/-- A decode that writes a record and takes no draw. -/
theorem witness_DecodeIsIdempotent :
    ∃ t, exec .decode (statusState [0x00#8, 0x03#8, 0x04#8, 0x85#8]) = .next t ∧
      t.draws = (statusState [0x00#8, 0x03#8, 0x04#8, 0x85#8]).draws ∧ t.flags.sValid = true := ⟨_, rfl, rfl, rfl⟩

/-- Every instruction answers a next state at reset, with no host fault: for WriteMatrixHolds, InstructionFrame and
CodesEachInstructionRaises. -/
theorem witness_instructions_answer (i : Instr) :
    State.reset.params.legal = true ∧ State.reset.fault = none ∧
    ∃ t, exec i State.reset = .next t ∧ t.fault = none := by
  refine ⟨rfl, rfl, ?_⟩
  cases i <;> exact ⟨_, rfl, rfl⟩

theorem witness_ErrorsArePrecise :
    ∃ t, exec .checksum State.reset = .next t ∧ t.flags.err ≠ .ok ∧ t.flags.err ≠ .unknownSpeedStepMode ∧
      t.fault = State.reset.fault := ⟨_, rfl, by decide, by decide, rfl⟩

/-- Each clause at its edges: the last register byte, the first buffer byte past each region, the first hole of the
register page and the last word before the buffers. -/
theorem witness_UnsoundAccessFaults :
    ((accessSpan (.read8 0x0FFF)).2 = 1 ∧ (accessSpan (.read8 0x0FFF)).1 < 0x1000) ∧
    ((accessSpan (.write32 0x1001 0#32)).2 = 4 ∧ (accessSpan (.write32 0x1001 0#32)).1 % 4 ≠ 0) ∧
    ((accessSpan (.write8 0x1100 0#8)).2 = 1 ∧ 0x1000 ≤ (accessSpan (.write8 0x1100 0#8)).1 ∧
      ¬ windowMapped Params.default (accessSpan (.write8 0x1100 0#8)).1) ∧
    ((accessSpan (.read32 0x0028)).2 = 4 ∧ (accessSpan (.read32 0x0028)).1 % 4 = 0 ∧
      ∃ i, i < 4 ∧ ¬ windowMapped Params.default ((accessSpan (.read32 0x0028)).1 + i)) ∧
    (∃ i, i < 4 ∧ ¬ windowMapped Params.default (0x0FFC + i)) ∧ Params.default.legal = true := by
  unfold windowMapped
  exact ⟨by decide, by decide, by decide, ⟨rfl, rfl, 0, by decide⟩, ⟨0, by decide⟩, by decide⟩

theorem witness_WriteToReadOnlyFaults :
    State.reset.params.legal = true ∧ State.reset.pending = none ∧ readOnlyRegister 0x004 ∧ readOnlyRegister 0x400 ∧
    readOnlyRegister 0x7FC ∧ (txBase ≤ 0x20FF ∧ 0x20FF < txBase + State.reset.params.frameMax) ∧
    (txBase ≤ 0x20FC ∧ 0x20FC + 3 < txBase + State.reset.params.frameMax ∧ 0x20FC % 4 = 0) := by
  unfold readOnlyRegister
  decide

theorem soundAccess_register {p : Params} {o : Nat} (h4 : o % 4 = 0)
    (h : o ≤ 0x24 ∨ (0x30 ≤ o ∧ o ≤ 0x40) ∨ (0x80 ≤ o ∧ o ≤ 0x84) ∨ (0x400 ≤ o ∧ o ≤ 0x7FC)) :
    soundAccess p (.read32 o) ∧ ∀ v, soundAccess p (.write32 o v) := by
  have hm : ∀ i, i < 4 → windowMapped p (o + i) := fun i hi => by unfold windowMapped; omega
  exact ⟨⟨fun _ => h4, fun h => by simp [accessSpan] at h, hm⟩,
    fun v => ⟨fun _ => h4, fun h => by simp [accessSpan] at h, hm⟩⟩

/-- A forbidden access (a write of a sound offset) and an allowed one, with DECODE pending. -/
theorem witness_BusyAccessFaults :
    (pend 4#32).params.legal = true ∧ (pend 4#32).pending = some 4#32 ∧
    soundAccess (pend 4#32).params (.read32 0x030) ∧ ¬ allowedWhileBusy (.read32 0x030) ∧
    soundAccess (pend 4#32).params (.write32 0x080 0#32) ∧ ¬ allowedWhileBusy (.write32 0x080 0#32) ∧
    soundAccess (pend 4#32).params (.read32 0x004) ∧ allowedWhileBusy (.read32 0x004) :=
  ⟨by decide, rfl, (soundAccess_register (by decide) (by decide)).1, by unfold allowedWhileBusy; decide,
    (soundAccess_register (by decide) (by decide)).2 _, by unfold allowedWhileBusy; decide,
    (soundAccess_register (by decide) (by decide)).1, .inl rfl⟩

/-- Each kind of access at a sound offset that it may reach. -/
theorem witness_SoundAccessCompletes :
    State.reset.params.legal = true ∧ State.reset.pending = none ∧ soundAccess Params.default (.read32 0x7FC) ∧
    soundAccess Params.default (.write8 0x10FF 1#8) ∧ (0x10FF < txBase ∨ payBase ≤ 0x10FF) ∧
    soundAccess Params.default (.write32 0x000 4#32) ∧ ¬ readOnlyRegister 0x000 ∧
    (soundAccess Params.default (.read8 0x1000) ∧ (Memory.read (fill rxBase 1 (fun _ => 7#8)) 0x1000).isSome = true) := by
  refine ⟨by decide, rfl, (soundAccess_register (by decide) (by decide)).1, ?_, by decide,
    (soundAccess_register (by decide) (by decide)).2 _, by unfold readOnlyRegister; decide, ?_, by decide⟩
  · unfold soundAccess windowMapped accessSpan; decide
  · unfold soundAccess windowMapped accessSpan; decide

theorem witness_HostReadOfUnwrittenByteFaults :
    State.reset.params.legal = true ∧ State.reset.pending = none ∧ windowMapped State.reset.params 0x30F9 ∧
    Memory.read State.reset.mem 0x30F9 = none ∧ (∀ i, i < 4 → windowMapped State.reset.params (0x10FC + i)) ∧
    ∃ i, i < 4 ∧ Memory.read State.reset.mem (0x10FC + i) = none := by
  unfold windowMapped
  exact ⟨by decide, rfl, by decide, rfl, by decide, 0, by decide⟩

theorem witness_OnlyCmdWriteHasSideEffect :
    ((∀ o v, Access.read32 0x004 ≠ .write8 o v) ∧ (∀ o v, Access.read32 0x004 ≠ .write32 o v)) ∧
    (∀ o ∈ [0x000, 0x008, 0x010, 0x014, 0x01C, 0x020], ∀ v, Access.write32 0x018 0x1E3#32 ≠ .write32 o v) ∧
    (∀ v, Access.write32 0x008 5#32 ≠ .write32 0x018 v) ∧
    (accessSpan (.write32 0x018 0x1E3#32)).1 < 0x1000 := by
  refine ⟨⟨fun _ _ h => Access.noConfusion h, fun _ _ h => Access.noConfusion h⟩, fun o ho v h => ?_, fun v h => ?_,
    by decide⟩
  · obtain rfl := (Access.write32.inj h).1
    exact absurd ho (by decide)
  · exact absurd (Access.write32.inj h).1 (by decide)

/-- The word clauses: the first word of `RX` and the last whole word of `PAY`. -/
theorem witness_BufferAccessesReadAndStore (b : Nat → Byte) (o : Nat) (ho : o = 0x1000 ∨ o = 0x30F4) :
    let s := { State.reset with mem := fill o 4 b }
    s.params.legal = true ∧ s.pending = none ∧ 0x1000 ≤ o ∧ o % 4 = 0 ∧ (∀ i, i < 4 → windowMapped s.params (o + i)) ∧
      holdsBytes s.mem o 4 b ∧ (o < txBase ∨ payBase ≤ o) := by
  refine ⟨rfl, rfl, by omega, by omega, fun i hi => ?_, holds_fill _ _ _, by unfold txBase payBase; omega⟩
  unfold windowMapped
  rcases ho with rfl | rfl
  · refine .inr (.inr (.inr (.inr (.inl ⟨by omega, ?_⟩))))
    show 0x1000 + i < 0x1000 + 256
    omega
  · refine .inr (.inr (.inr (.inr (.inr (.inr ⟨by omega, ?_⟩)))))
    show 0x30F4 + i < 0x3000 + 250
    omega

/-- The byte clauses: the last byte of `RX`, of `TX` (read only) and of `PAY`, each at an offset that is no multiple of
4. -/
theorem witness_BufferAccessesReadAndStore_bytes :
    State.reset.params.legal = true ∧ State.reset.pending = none ∧
    windowMapped State.reset.params 0x10FF ∧ windowMapped State.reset.params 0x20FF ∧
    windowMapped State.reset.params 0x30F9 ∧ 0x10FF < txBase ∧ payBase ≤ 0x30F9 ∧
    (∀ o ∈ [0x10FF, 0x20FF, 0x30F9], Memory.read (Memory.write State.reset.mem o 0x5A#8) o = some 0x5A#8) := by
  unfold windowMapped txBase payBase
  decide

/-- For CmdWriteStartsCommand, RegisterWritesReadBack and ResultRegistersRead. -/
theorem witness_idle : State.reset.pending = none := rfl

theorem witness_StatusReadsBusyAndFlags : State.reset.pending = none ∧ (pend 0#32).pending ≠ none := by decide

theorem witness_ParamRegistersReport : Params.default.legal = true ∧
    ({ payMax := 4090, fnExtMax := 1023, addressFormula := .sourceLiteral, unknownModeSpeed := .draw } : Params).legal =
      true := by decide

theorem witness_ResetMoveRestoresReset : ({ pend 4#32 with moves := [.reset, .engine] } : State).moves = [.reset, .engine] :=
  rfl

/-- For StepKeepsMemory, StepKeepsCommand, StepKeepsFunctionPrefix, StepKeepsModeAndSpeed, StepKeepsNoRecord and
StepKeepsTransmitBuffer: all their premises together, in a state whose next move is a host write. -/
theorem witness_invariants :
    let s := { State.reset with moves := [.host (.write8 0x1000 1#8)] }
    s.params.legal = true ∧ s.memInv ∧ s.commandInv ∧ s.fnPrefixInv ∧ s.fnCountInv ∧ s.modeInv ∧ s.speedInv ∧
      s.noRecordInv ∧ s.txInv ∧ ∃ t, step s = .next t := by
  refine ⟨by decide, ⟨rfl, fun o v h => ?_⟩, fun w h => ?_, fun i _ => BitVec.getLsbD_zero, .inl rfl, rfl,
    ⟨fun h => absurd rfl h, fun h => ?_, fun _ _ => rfl⟩, fun _ => ⟨rfl, rfl⟩, ⟨by decide, .inl rfl⟩, _, rfl⟩
  · cases h
  · cases h
  · cases h

/-- A host write, a pending DECODE that writes a record, and a reset each answer a next state. -/
theorem witness_steps_answer :
    (∃ t, step { State.reset with moves := [.host (.write8 0x1000 1#8)] } = .next t ∧ t.fault = none) ∧
    (∃ t, step { statusState [0x00#8, 0x03#8, 0x04#8, 0x85#8] with cmd := 4#32, pending := some 4#32 } = .next t ∧
      t.flags.sValid = true) ∧
    (∃ t, step { State.reset with moves := [.reset] } = .next t) := ⟨⟨_, rfl, rfl⟩, ⟨_, rfl, rfl⟩, _, rfl⟩

end Sys2Proof.Tests
end

/-! PROOFS. `PARAM0` and `PARAM1` (R33): what they read, and that no step and no reset changes the parameters. -/

namespace Sys2Proof.Machine

/-! ### The parameters never change -/

theorem AccessEffect.params_eq {s t : State} (h : AccessEffect s t) : t.params = s.params := by
  cases h <;> rfl

theorem Effect.params_eq {i : Instr} {s t : State} (h : Effect i s t) : t.params = s.params := by
  cases h with
  | decodedUnknown => exact countUnknownDraw_params s
  | _ => rfl

/-- R33: the parameters are "constant for a given block". -/
theorem step_params {s t : State} (h : step s = .next t) : t.params = s.params :=
  step_keeps (Inv := fun u => u.params = s.params)
    (hreset := fun _ hu => hu) (hmoves := fun _ _ hu => hu) (hclear := fun _ hu => hu)
    (haccess := fun _ _ hu he => he.params_eq.trans hu) (hexec := fun _ _ _ hu he => he.params_eq.trans hu) rfl h

/-! ### A read of a parameter register, with or without a command pending -/

/-- A 4-byte read of a register that stays readable while `BUSY` = 1, other than `STATUS`, returns its word at any time
(R58). -/
theorem access_read32_readable {s : State} {o : Nat} {r : Reg} (ho : o < 0x1000) (h4 : o % 4 = 0)
    (hr : regAt o = some r) (hb : readableWhileBusy (.reg r) = true) (hs : r ≠ .status) :
    access (.read32 o) s = s.setReadData (regWord s r) := by
  simp [access, memRead32, target32_reg ho h4 hr, readReg, hb, hs]

/-! ### The parameter words as numbers -/

/-- A word put together from a low part below bit `k` and a part shifted to bit `k` is their sum. -/
theorem toNat_or_shiftLeft {lo hi : Word} {k : Nat} (hlo : lo.toNat < 2 ^ k) (hhi : hi.toNat * 2 ^ k < 2 ^ 32) :
    (lo ||| hi <<< k).toNat = lo.toNat + 2 ^ k * hi.toNat := by
  rw [BitVec.toNat_or, BitVec.toNat_shiftLeft, Nat.shiftLeft_eq, Nat.mod_eq_of_lt hhi, Nat.lor_comm, Nat.mul_comm,
    ← Nat.two_pow_add_eq_or_of_lt hlo, Nat.add_comm]

/-- A 16-bit field at bit 0 of a word. -/
theorem toNat_ofNat_field {n : Nat} (h : n < 65536) : (BitVec.ofNat 32 (n % 65536)).toNat = n := by
  rw [BitVec.toNat_ofNat]; omega

/-- A flag at bit `i` above a low part. -/
theorem toNat_or_bitAt {lo : Word} {i : Nat} (c : Prop) [Decidable c] (hlo : lo.toNat < 2 ^ i) (hi : i < 32) :
    (lo ||| bitAt (decide c) i).toNat = lo.toNat + 2 ^ i * (if c then 1 else 0) := by
  have hb : ((BitVec.ofBool (decide c)).setWidth 32 : Word).toNat = if c then 1 else 0 := by
    by_cases hc : c <;> simp [hc]
  have hp : 2 ^ i < 2 ^ 32 := Nat.pow_lt_pow_right (by omega) hi
  rw [bitAt, toNat_or_shiftLeft hlo (by rw [hb]; split <;> omega), hb]

/-- R33: `PARAM0` holds `PAY_MAX` and, 16 bits up, `FRAME_MAX`. -/
theorem regWord_param0_toNat {s : State} (hl : s.params.legal = true) :
    (regWord s .param0).toNat = s.params.payMax + 0x10000 * (s.params.payMax + 6) := by
  obtain ⟨-, hp, -⟩ := Params.legal_iff.1 hl
  have hlo := toNat_ofNat_field (n := s.params.payMax) (by omega)
  have hhi := toNat_ofNat_field (n := s.params.frameMax) (by unfold Params.frameMax; omega)
  rw [regWord, toNat_or_shiftLeft (by omega) (by rw [hhi]; unfold Params.frameMax; omega), hlo, hhi]
  rfl

/-- R33: `PARAM1` holds `FN_EXT_MAX`, `ADDRESS_FORMULA` in bit 16 and `UNKNOWN_MODE_SPEED` in bit 17. -/
theorem regWord_param1_toNat {s : State} (hl : s.params.legal = true) :
    (regWord s .param1).toNat =
      s.params.fnExtMax + 0x10000 * (if s.params.addressFormula = .sourceLiteral then 1 else 0) +
        0x20000 * (if s.params.unknownModeSpeed = .draw then 1 else 0) := by
  obtain ⟨-, -, hf⟩ := Params.legal_iff.1 hl
  have hf' : s.params.fnExtMax ≤ 1023 := hf.trans (Nat.min_le_right _ _)
  have hlo := toNat_ofNat_field (n := s.params.fnExtMax) (by omega)
  have h16 := toNat_or_bitAt (i := 16) (s.params.addressFormula = .sourceLiteral)
    (lo := BitVec.ofNat 32 (s.params.fnExtMax % 65536)) (by omega) (by omega)
  rw [hlo] at h16
  rw [regWord, toNat_or_bitAt _ (by rw [h16]; split <;> omega) (by omega), h16]
  rfl

end Sys2Proof.Machine

namespace Sys2Proof.Proofs

open Sys2Proof.Machine

/-- Settles O47: both registers stay readable while a command is pending, their fields do not overlap under legal
parameters, and no effect of a step touches the parameters. -/
theorem paramRegistersReport : Obligations.ParamRegistersReport := by
  unfold Obligations.ParamRegistersReport
  intro s hl
  have h0 : access (.read32 0x080) s = s.setReadData (regWord s .param0) :=
    access_read32_readable (by omega) rfl rfl rfl (by simp)
  have h1 : access (.read32 0x084) s = s.setReadData (regWord s .param1) :=
    access_read32_readable (by omega) rfl rfl rfl (by simp)
  refine ⟨⟨_, by rw [h0]; rfl, regWord_param0_toNat hl⟩, ⟨_, by rw [h1]; rfl, regWord_param1_toNat hl⟩,
    State.resetBlock_params s, fun _ => step_params⟩

end Sys2Proof.Proofs

/-! PROOFS. Host writes to what is read-only (R61), and buffer accesses of one byte and of four (R57 to R59). -/

namespace Sys2Proof.Machine

/-! ### Offsets -/

/-- Above the register page the window's map (R63) is the buffers' map. -/
theorem bufferMapped_of_windowMapped {p : Params} {o : Nat} (ho : 0x1000 ≤ o) (h : windowMapped p o) :
    bufferMapped p o = true := by
  unfold windowMapped at h
  rw [bufferMapped_iff, rxBase, txBase, payBase]
  omega

theorem bufferMapped_of_mem_tx {p : Params} {o : Nat} (h : txBase ≤ o) (h' : o < txBase + p.frameMax) :
    bufferMapped p o = true :=
  bufferMapped_iff.2 (.inr (.inl ⟨h, h'⟩))

/-- Under legal parameters `TX` ends at or before `PAY`, so that each of its bytes is in the region R61 protects. -/
theorem inTx_of_mem_tx {p : Params} {o : Nat} (hl : p.legal = true) (h : txBase ≤ o) (h' : o < txBase + p.frameMax) :
    inTx o = true := by
  obtain ⟨-, hp, -⟩ := Params.legal_iff.1 hl
  refine inTx_iff.2 ⟨h, ?_⟩
  unfold txBase Params.frameMax at h'
  unfold payBase
  omega

theorem inTx_eq_false {o : Nat} (h : o < txBase ∨ payBase ≤ o) : inTx o = false := by
  rw [Bool.eq_false_iff, Ne, inTx_iff]
  omega

/-- R61's offsets hold registers of the map that have no store. -/
theorem regAt_of_readOnlyRegister {o : Nat} (h : readOnlyRegister o) :
    o < 0x1000 ∧ o % 4 = 0 ∧ ∃ r, regAt o = some r ∧ ∀ v s, writeReg r v s = none := by
  rcases h with rfl | rfl | rfl | rfl | rfl | rfl | rfl | rfl | rfl | rfl | ⟨hlo, hhi, h4⟩
  iterate 10 exact ⟨by omega, rfl, _, rfl, fun _ _ => rfl⟩
  have hr : regAt o = some (.fnW ((o - 0x400) / 4)) := regAt_eq_some.2 (by simp; omega)
  exact ⟨by omega, h4, _, hr, fun _ _ => rfl⟩

/-! ### Writes of a buffer -/

theorem writeBuffer_of_inTx {o : Nat} (bs : List Byte) (s : State) (h : inTx o = true) :
    writeBuffer o bs s = s.setFault .writeRo := by
  rw [writeBuffer, if_pos h]

theorem writeBuffer_of_not_inTx {o : Nat} (bs : List Byte) (s : State) (h : inTx o = false) :
    writeBuffer o bs s = s.setMem (Memory.writeBytes s.mem o bs) := by
  rw [writeBuffer, h, if_neg Bool.false_ne_true]

/-- A run of writes stores its bytes, in order, and no other byte. -/
theorem storedBytes_writeBytes (m : Memory) (o : Nat) {bs : List Byte} {b : Nat → Byte}
    (h : ∀ i, i < bs.length → bs[i]? = some (b i)) :
    storedBytes m (Memory.writeBytes m o bs) o bs.length b := by
  intro x
  rw [Memory.read_writeBytes]
  by_cases hx : o ≤ x ∧ x < o + bs.length
  · rw [if_pos hx, if_pos hx, h _ (by omega)]
  · rw [if_neg hx, if_neg hx]

/-- The bytes a store placed are held afterwards. -/
theorem holdsBytes_of_storedBytes {m m' : Memory} {o n : Nat} {b : Nat → Byte} (h : storedBytes m m' o n b) :
    holdsBytes m' o n b := by
  intro i hi
  rw [h, if_pos (by omega), Nat.add_sub_cancel_left]

/-- The bytes of a word, low byte first (R55, R57). -/
theorem bytesOfWord_getElem? (v : Word) {i : Nat} (hi : i < 4) :
    (bytesOfWord v)[i]? = some (BitVec.ofNat 8 (v.toNat / 256 ^ i)) := by
  rw [← byte_of_word]
  interval_cases i <;> rfl

/-! ### Reads of a buffer -/

variable {s : State} {o : Nat}

/-- A 1-byte read of a mapped byte that holds a value returns it (R58). -/
theorem access_read8_of_read {b : Byte} (hp : s.pending = none) (hm : bufferMapped s.params o = true)
    (hb : Memory.read s.mem o = some b) : access (.read8 o) s = s.setReadData (BitVec.ofNat 32 b.toNat) := by
  rw [access_read8_buffer hp hm, hb, BitVec.ofNat_toNat]

/-- A 4-byte read of mapped bytes that hold values returns them, low byte first (R57). -/
theorem access_read32_of_holdsBytes {b : Nat → Byte} (hp : s.pending = none) (h4 : o % 4 = 0)
    (hm : ∀ i, i < 4 → bufferMapped s.params (o + i) = true) (hb : holdsBytes s.mem o 4 b) :
    access (.read32 o) s = s.setReadData (BitVec.ofNat 32
      ((b 0).toNat + 0x100 * (b 1).toNat + 0x10000 * (b 2).toNat + 0x1000000 * (b 3).toNat)) := by
  have hr : Memory.readBytes s.mem o 4 = some [b 0, b 1, b 2, b 3] := Memory.readBytes_of_read hb
  rw [access_read32_buffer hp h4 hm, hr, ← wordOfBytes_toNat, BitVec.ofNat_toNat, BitVec.setWidth_eq]

end Sys2Proof.Machine

namespace Sys2Proof.Proofs

open Sys2Proof.Machine

/-- Settles O39: the registers of R61 have no store, and under legal parameters all of `TX` lies in the region that a
buffer write refuses. -/
theorem writeToReadOnlyFaults : Obligations.WriteToReadOnlyFaults := by
  unfold Obligations.WriteToReadOnlyFaults
  intro s o v b hl hp
  refine ⟨fun hro => ?_, fun hlo hhi => ?_, fun hlo hhi h4 => ?_⟩
  · obtain ⟨ho, h4, r, hr, hw⟩ := regAt_of_readOnlyRegister hro
    rw [access_write32_reg hp ho h4 hr, hw]
    rfl
  · rw [access_write8_buffer hp (bufferMapped_of_mem_tx hlo hhi), writeBuffer_of_inTx _ _ (inTx_of_mem_tx hl hlo hhi)]
    rfl
  · have hm : ∀ i, i < 4 → bufferMapped s.params (o + i) = true := fun i hi =>
      bufferMapped_of_mem_tx (by omega) (by omega)
    rw [access_write32_buffer hp h4 hm, writeBuffer_of_inTx _ _ (inTx_of_mem_tx hl hlo (by omega))]
    rfl

/-- Settles O44: outside `TX` a write is a run of byte writes, which stores exactly its bytes, so that a later read of
one of them finds it. -/
theorem bufferAccessesReadAndStore : Obligations.BufferAccessesReadAndStore := by
  unfold Obligations.BufferAccessesReadAndStore
  intro s o _ hp ho
  refine ⟨fun hw => ?_, fun h4 hw => ?_⟩
  · have hm := bufferMapped_of_windowMapped ho hw
    refine ⟨fun b hb => access_read8_of_read hp hm hb, fun b ht => ⟨Memory.writeBytes s.mem o [b], ?_, ?_⟩⟩
    · exact storedBytes_writeBytes s.mem o (bs := [b]) (by simp)
    · rw [access_write8_buffer hp hm, writeBuffer_of_not_inTx _ _ (inTx_eq_false ht)]
      rfl
  · have hm : ∀ i, i < 4 → bufferMapped s.params (o + i) = true := fun i hi =>
      bufferMapped_of_windowMapped (by omega) (hw i hi)
    refine ⟨fun b hb => access_read32_of_holdsBytes hp h4 hm hb, fun v ht => ?_⟩
    have hst := storedBytes_writeBytes s.mem o (bs := bytesOfWord v) fun _ hi => bytesOfWord_getElem? v hi
    refine ⟨Memory.writeBytes s.mem o (bytesOfWord v), hst, ?_, fun i hi => ?_⟩
    · rw [access_write32_buffer hp h4 hm, writeBuffer_of_not_inTx _ _ (inTx_eq_false ht)]
      rfl
    · have hb := holdsBytes_of_storedBytes hst i hi
      have hr := access_read8_of_read (s := s.setMem (Memory.writeBytes s.mem o (bytesOfWord v))) hp (hm i hi) hb
      rw [BitVec.toNat_ofNat] at hr
      exact congrArg State.readData hr

end Sys2Proof.Proofs

/-! PROOFS. Reserved command words (R84), and the engine's turn on one (R180). -/

namespace Sys2Proof

/-! ### The words that decode to a command -/

/-- R81: the `OP` values of the rows whose `A0` and `A1` are fixed at 0. -/
theorem fixedCommand_range {op : Byte} {i : Instr} (h : fixedCommand op = some i) :
    op.toNat ≤ 0x04 ∨ (0x10 ≤ op.toNat ∧ op.toNat ≤ 0x12) := by
  unfold fixedCommand at h
  iterate 8
    obtain ⟨rfl, -⟩ | h := Machine.of_ite_some h
    · decide
  cases h

/-- R81: a command word has `RSVD` = 0, and it is BUILD_SUB_LOCO with its two operands or a fixed row with none. -/
theorem decodeCommand_eq_ok {w : Word} {i : Instr} :
    decodeCommand w = .ok i ↔ rsvdField w = 0#8 ∧
      ((opField w = 0x13#8 ∧ i = .buildSubLoco (a0Field w) (a1Field w)) ∨
        (opField w ≠ 0x13#8 ∧ fixedCommand (opField w) = some i ∧ a0Field w = 0#8 ∧ a1Field w = 0#8)) := by
  unfold decodeCommand
  by_cases hr : rsvdField w = 0#8
  · by_cases ho : opField w = 0x13#8
    · simp [hr, ho, eq_comm]
    · cases hc : fixedCommand (opField w) with
      | none => simp [hr, ho]
      | some j =>
        by_cases ha : a0Field w = 0#8 ∧ a1Field w = 0#8
        · simp [hr, ho, ha]
        · simp [hr, ho, ha]
  · simp [hr]

/-- R84's cases leave no row of R81 for the word. -/
theorem decodeCommand_reserved {w : Word}
    (h : w.toNat / 0x1000000 ≠ 0 ∨
      (0x05 ≤ w.toNat % 0x100 ∧ w.toNat % 0x100 ≤ 0x0F) ∨
      0x14 ≤ w.toNat % 0x100 ∨
      (w.toNat % 0x100 ≠ 0x13 ∧ w.toNat / 0x100 % 0x10000 ≠ 0)) :
    ∃ e, decodeCommand w = .error e := by
  cases hd : decodeCommand w with
  | error e => exact ⟨e, rfl⟩
  | ok i =>
    exfalso
    obtain ⟨hr, hc⟩ := decodeCommand_eq_ok.1 hd
    have hr : w.toNat / 0x1000000 = 0 := by rw [← rsvdField_toNat, hr]; rfl
    rcases hc with ⟨ho, -⟩ | ⟨-, hf, h0, h1⟩
    · have ho : w.toNat % 0x100 = 0x13 := by rw [← opField_toNat, ho]; rfl
      omega
    · have ho := fixedCommand_range hf
      rw [opField_toNat] at ho
      have h0 : w.toNat / 0x100 % 0x100 = 0 := by rw [← a0Field_toNat, h0]; rfl
      have h1 : w.toNat / 0x10000 % 0x100 = 0 := by rw [← a1Field_toNat, h1]; rfl
      omega

end Sys2Proof

namespace Sys2Proof.Machine

/-! ### The engine's turn -/

theorem engineNext_fault {s s0 : State} (h : engineNext s s0) : s0.fault = none := by
  obtain ⟨hf, ⟨-, rfl⟩ | ⟨ms, -, rfl⟩⟩ := h <;> exact hf

/-- With the next move the engine's, the step is the engine's step (R180) in the state without that move. -/
theorem step_of_engineNext {s s0 : State} (h : engineNext s s0) : step s = engineStep s0 := by
  obtain ⟨hf, ⟨hm, rfl⟩ | ⟨ms, hm, rfl⟩⟩ := h
  · simp only [step, machineStep, hm, hf]
  · show step s = engineStep (s.setMoves ms)
    simp only [step, machineStep, hm, hf]

/-- R84, R180: a word that is no command ends in `BAD_COMMAND`. -/
theorem engineStep_of_decodeCommand_error {s : State} {w : Word} {e : DecodeError} (hf : s.fault = none)
    (hp : s.pending = some w) (hd : decodeCommand w = .error e) :
    engineStep s = .next (s.setErr .badCommand).clearPending := by
  simp only [engineStep, hp, fetch, hd, raiseErr, afterExec]
  rw [endCommand_of_unfaulted (by simpa using hf)]

end Sys2Proof.Machine

namespace Sys2Proof.Proofs

open Sys2Proof.Machine

/-- Settles O4: no row of the map is left for such a word, so the engine's turn takes the decoder's error branch; a
write of `CMD` does not look at its word. -/
theorem reservedWordRaisesBadCommand : Obligations.ReservedWordRaisesBadCommand := by
  unfold Obligations.ReservedWordRaisesBadCommand
  intro s s0 w hn hp hw
  obtain ⟨e, he⟩ := decodeCommand_reserved hw
  refine ⟨?_, fun u hu => ?_⟩
  · rw [step_of_engineNext hn, engineStep_of_decodeCommand_error (engineNext_fault hn) hp he]
    rfl
  · rw [access_write32_reg hu (r := .cmd) (by omega) rfl rfl]
    rfl

end Sys2Proof.Proofs

/-! PROOFS. The codec's fold (R102), PARSE (R103, R104), SERIALIZE (R110, R111) and CHECKSUM (R116, R117), and what
PARSE and SERIALIZE do one after the other (R113, R114). -/

namespace Sys2Proof.Machine

/-! ### The fold -/

theorem fold_concat (x : Byte) (s : List Byte) (b : Byte) : fold x (s ++ [b]) = fold x s ^^^ b :=
  fold_append x s [b]

/-- The order of the bytes does not matter, because exclusive-or is associative and commutative (R102). -/
theorem fold_perm (x : Byte) {s u : List Byte} (h : s.Perm u) : fold x s = fold x u := by
  rw [fold_eq_foldl, fold_eq_foldl]
  exact h.foldl_eq' (fun a _ b _ z => by rw [BitVec.xor_assoc, BitVec.xor_comm a, BitVec.xor_assoc]) x

/-- A byte and its repetition cancel out. -/
theorem fold_cons_cons_self (x b : Byte) (s : List Byte) : fold x (b :: b :: s) = fold x s := by
  simp [fold]

theorem fold_replicate_even (x b : Byte) (n : Nat) (s : List Byte) :
    fold x (List.replicate (2 * n) b ++ s) = fold x s := by
  induction n with
  | zero => rfl
  | succ n ih => exact (fold_cons_cons_self x b _).trans ih

/-- The fold of bytes given by an index is the statements' running exclusive-or. -/
theorem fold_range (x : Byte) (b : Nat → Byte) (n : Nat) : fold x ((List.range n).map b) = xorUpTo x b n := by
  induction n with
  | zero => rfl
  | succ n ih => rw [List.range_succ, List.map_append, List.map_singleton, fold_concat, ih, xorUpTo]

theorem xorUpTo_congr (x : Byte) {b c : Nat → Byte} {n : Nat} (h : ∀ i, i < n → b i = c i) :
    xorUpTo x b n = xorUpTo x c n := by
  rw [← fold_range, ← fold_range, List.map_congr_left fun i hi => h i (List.mem_range.1 hi)]

/-! ### The frame checks, when they fail (R110, R116) -/

theorem withValidFrame_of_error {s : State} {body : State → Host.Outcome State Fault Refusal} {e : ErrCode}
    (h : frameError s = some e) : withValidFrame s body = .next (onlyErr s e) := by
  rw [withValidFrame, h]
  rfl

theorem frameError_of_payMax_lt {s : State} (h : s.params.payMax < s.frame.plen.toNat) :
    frameError s = some .frameTooLong :=
  if_pos h

theorem frameError_of_no_xh {s : State} (hk : s.frame.plen.toNat ≤ s.params.payMax) (h0 : 0 < s.frame.plen.toNat)
    (hx : s.frame.xhValid = false) : frameError s = some .invalidFrame := by
  rw [frameError, if_neg (by omega), if_pos ⟨h0, hx⟩]

theorem exec_serialize_of_frameError {s : State} {e : ErrCode} (h : frameError s = some e) :
    exec .serialize s = .next (onlyErr s e) := by
  show execSerialize s = _
  exact withValidFrame_of_error h

theorem exec_checksum_of_frameError {s : State} {e : ErrCode} (h : frameError s = some e) :
    exec .checksum s = .next (onlyErr s e) := by
  show execChecksum s = _
  exact withValidFrame_of_error h

/-- Without an extended header a valid frame has no payload to sum (R116). -/
theorem exec_checksum_of_no_xh {s : State} (h0 : s.frame.plen.toNat = 0) (hx : s.frame.xhValid = false) :
    exec .checksum s = .next (onlyErr s .noChecksum) := by
  show execChecksum s = _
  rw [execChecksum, withValidFrame_of_valid (by omega) (.inl h0), hx]
  rfl

/-! ### Bytes given by an index, stored and read -/

theorem storedBytes_range (m : Memory) (o n : Nat) (b : Nat → Byte) :
    storedBytes m (Memory.writeBytes m o ((List.range n).map b)) o n b := by
  simpa using storedBytes_writeBytes m o (bs := (List.range n).map b) (b := b) (by simp +contextual)

theorem payload_of_holdsBytes {s : State} {p : Nat → Byte} (hp : holdsBytes s.mem payBase s.frame.plen.toNat p) :
    payload s = some ((List.range s.frame.plen.toNat).map p) :=
  Memory.readBytes_of_read hp

/-! ### PARSE (R103, R104) -/

theorem exec_parse_of_lt_five {s : State} (h : s.rxLen.toNat < 5) :
    exec .parse s = .next (onlyErr s .malformedFrame) := by
  show execParse s = _
  rw [execParse, if_pos h]
  rfl

/-- `FRAME_MAX` is at least 6, so a datagram above it is not also too short. -/
theorem exec_parse_of_frameMax_lt {s : State} (h : s.params.frameMax < s.rxLen.toNat) :
    exec .parse s = .next (onlyErr s .frameTooLong) := by
  have h6 : s.params.frameMax = s.params.payMax + 6 := rfl
  show execParse s = _
  rw [execParse, if_neg (by omega), if_pos h]
  rfl

/-- The frame registers PARSE leaves from the `n` received bytes `d 0`, `d 1`, ... (R103, R105, R107). -/
def receivedFrame (d : Nat → Byte) (n : Nat) : Frame where
  len := le16 (d 0) (d 1)
  hdr0 := d 2
  hdr1 := d 3
  xh := d 4
  xhValid := true
  plen := BitVec.ofNat 16 (n - 6)
  ck := d (n - 1)
  ckValid := true

theorem parsedFrame_range (d : Nat → Byte) {n : Nat} (h5 : 5 ≤ n) :
    parsedFrame ((List.range n).map d) = receivedFrame d n := by
  have hb : ∀ {i}, i < n → byteAt ((List.range n).map d) i = d i := byteAt_range d
  rw [parsedFrame, List.length_map, List.length_range, hb (by omega), hb (by omega), hb (by omega), hb (by omega),
    hb (by omega), hb (by omega)]
  rfl

theorem parsedPayload_range (d : Nat → Byte) {n : Nat} (h5 : 5 ≤ n) :
    parsedPayload ((List.range n).map d) = (List.range (n - 6)).map fun i => d (5 + i) := by
  rw [parsedPayload, List.length_map, List.length_range, slice_range d (by omega), Nat.add_sub_cancel_left]

/-- PARSE of `n` bytes that hold values, 5 to `FRAME_MAX`: the whole next state. -/
theorem exec_parse_of_holdsBytes {s : State} {d : Nat → Byte} {n : Nat} (hn : s.rxLen.toNat = n) (h5 : 5 ≤ n)
    (hm : n ≤ s.params.frameMax) (hd : holdsBytes s.mem rxBase n d) :
    ∃ m, storedBytes s.mem m payBase (n - 6) (fun i => d (5 + i)) ∧
      exec .parse s = .next { s with
        mem := m
        frame := receivedFrame d n
        ckCalc := xorUpTo (d 4) (fun i => d (5 + i)) (n - 6)
        flags := { s.flags with
          err := .ok
          cksumOk := decide (d (n - 1) = xorUpTo (d 4) (fun i => d (5 + i)) (n - 6)) } } := by
  refine ⟨_, storedBytes_range s.mem payBase (n - 6) _, ?_⟩
  have hr : rxDatagram s = some ((List.range n).map d) := by rw [rxDatagram, hn, Memory.readBytes_of_read hd]
  show execParse s = _
  rw [execParse, if_neg (by omega), if_neg (by omega), hr]
  simp only [finish, parseWrites, parsedFold, parsedFrame_range d h5, parsedPayload_range d h5, fold_range,
    List.length_map, List.length_range, byteAt_range d (show 4 < n by omega),
    byteAt_range d (show n - 1 < n by omega)]
  rfl

/-! ### SERIALIZE and CHECKSUM of a valid frame (R111, R117) -/

/-- Byte `i` of the datagram of a frame with an extended header and the payload bytes `p 0` to `p (k - 1)` (R111). -/
def serializedByte (f : Frame) (k : Nat) (p : Nat → Byte) (i : Nat) : Byte :=
  if i = 0 then BitVec.ofNat 8 ((6 + k) % 256)
  else if i = 1 then BitVec.ofNat 8 ((6 + k) / 256)
  else if i = 2 then f.hdr0
  else if i = 3 then f.hdr1
  else if i = 4 then f.xh
  else if i < 5 + k then p (i - 5)
  else if f.ckValid then f.ck
  else xorUpTo f.xh p k

theorem serializedByte_payload (f : Frame) {k : Nat} (p : Nat → Byte) {i : Nat} (hi : i < k) :
    serializedByte f k p (5 + i) = p i := by
  rw [serializedByte, if_neg (by omega), if_neg (by omega), if_neg (by omega), if_neg (by omega), if_neg (by omega),
    if_pos (by omega), Nat.add_sub_cancel_left]

theorem serializedByte_ck (f : Frame) (k : Nat) (p : Nat → Byte) :
    serializedByte f k p (5 + k) = if f.ckValid then f.ck else xorUpTo f.xh p k := by
  rw [serializedByte, if_neg (by omega), if_neg (by omega), if_neg (by omega), if_neg (by omega), if_neg (by omega),
    if_neg (by omega)]

/-- The low byte of a 16-bit length (R12). -/
theorem extractLsb'_length_lo (n : Nat) : (BitVec.ofNat 16 n).extractLsb' 0 8 = BitVec.ofNat 8 (n % 256) := by
  apply BitVec.eq_of_toNat_eq
  simp

/-- The high byte of a 16-bit length (R12). -/
theorem extractLsb'_length_hi (n : Nat) : (BitVec.ofNat 16 n).extractLsb' 8 8 = BitVec.ofNat 8 (n / 256) := by
  apply BitVec.eq_of_toNat_eq
  rw [BitVec.extractLsb'_toNat, BitVec.toNat_ofNat, BitVec.toNat_ofNat, Nat.shiftRight_eq_div_pow]
  omega

/-- The length field of a datagram reads back as its length. -/
theorem le16_length_bytes {n : Nat} (h : n < 65536) :
    (le16 (BitVec.ofNat 8 (n % 256)) (BitVec.ofNat 8 (n / 256))).toNat = n := by
  rw [← extractLsb'_length_lo, ← extractLsb'_length_hi, le16_bytes, BitVec.toNat_ofNat, Nat.mod_eq_of_lt h]

theorem extendedBody_length (f : Frame) (k : Nat) (p : Nat → Byte) :
    2 + (extendedBody f ((List.range k).map p)).length = 6 + k := by
  simp only [extendedBody, List.length_cons, List.length_append, List.length_map, List.length_range, List.length_nil]
  omega

/-- The datagram SERIALIZE emits, byte by byte. -/
theorem datagram_extendedBody_getElem? (f : Frame) {k : Nat} (p : Nat → Byte) {i : Nat} (hi : i < 6 + k) :
    (datagram (extendedBody f ((List.range k).map p)))[i]? = some (serializedByte f k p i) := by
  rw [datagram, extendedBody_length, extractLsb'_length_lo, extractLsb'_length_hi]
  match i, hi with
  | 0, _ => rfl
  | 1, _ => rfl
  | 2, _ => rfl
  | 3, _ => rfl
  | 4, _ => rfl
  | j + 5, hi =>
    rw [Nat.add_comm j 5]
    by_cases hj : j < k
    · rw [serializedByte_payload f p hj]
      simp [extendedBody, Nat.add_comm 5 j, List.getElem?_append, hj]
    · obtain rfl : j = k := by omega
      rw [serializedByte_ck]
      simp [extendedBody, Nat.add_comm 5 j, emittedCk, fold_range]

/-- What SERIALIZE's run of writes stores in `TX` for a frame with an extended header. -/
theorem storedBytes_datagram (m : Memory) (f : Frame) (k : Nat) (p : Nat → Byte) :
    storedBytes m (Memory.writeBytes m txBase (datagram (extendedBody f ((List.range k).map p)))) txBase (6 + k)
      (serializedByte f k p) := by
  have hl : (datagram (extendedBody f ((List.range k).map p))).length = 6 + k := by
    rw [← extendedBody_length f k p, datagram]; simp only [List.length_cons]; omega
  rw [← hl]
  exact storedBytes_writeBytes m txBase fun i hi => datagram_extendedBody_getElem? f p (hl ▸ hi)

/-- SERIALIZE of a valid frame with an extended header and `k` payload bytes that hold values: the whole next state. -/
theorem exec_serialize_of_holdsBytes {s : State} {p : Nat → Byte} {k : Nat} (hk : s.frame.plen.toNat = k)
    (hm : k ≤ s.params.payMax) (hx : s.frame.xhValid = true) (hp : holdsBytes s.mem payBase k p) :
    ∃ m, storedBytes s.mem m txBase (6 + k) (serializedByte s.frame k p) ∧
      exec .serialize s = .next { s with
        mem := m
        txLen := BitVec.ofNat 16 (6 + k)
        frame := { s.frame with len := BitVec.ofNat 16 (6 + k) }
        ckCalc := xorUpTo s.frame.xh p k
        flags := { s.flags with err := .ok } } := by
  subst hk
  refine ⟨_, storedBytes_datagram s.mem s.frame s.frame.plen.toNat p, ?_⟩
  show execSerialize s = _
  rw [execSerialize, withValidFrame_of_valid hm (.inr hx), if_pos hx, payload_of_holdsBytes hp]
  simp only [finish, emit, extendedBody_length, fold_range]
  rfl

theorem datagram_pair (h0 h1 : Byte) : datagram [h0, h1] = [4#8, 0#8, h0, h1] := by
  simp [datagram]

/-- SERIALIZE of a valid frame without an extended header: the four bytes `04 00 h0 h1` (R111). -/
theorem exec_serialize_of_no_xh {s : State} (h0 : s.frame.plen.toNat = 0) (hx : s.frame.xhValid = false) :
    ∃ m, storedBytes s.mem m txBase 4
        (fun i => if i = 0 then 4#8 else if i = 1 then 0#8 else if i = 2 then s.frame.hdr0 else s.frame.hdr1) ∧
      exec .serialize s = .next { s with
        mem := m
        txLen := 4#16
        frame := { s.frame with len := 4#16 }
        flags := { s.flags with err := .ok } } := by
  refine ⟨_, storedBytes_writeBytes s.mem txBase (bs := datagram [s.frame.hdr0, s.frame.hdr1]) ?_, ?_⟩
  · intro i (hi : i < 4)
    rw [datagram_pair]
    interval_cases i <;> rfl
  · show execSerialize s = _
    rw [execSerialize, withValidFrame_of_valid (by omega) (.inl h0), if_neg (by rw [hx]; exact Bool.false_ne_true)]
    rfl

/-- CHECKSUM of a valid frame with an extended header, whose payload bytes hold values: the whole next state. -/
theorem exec_checksum_of_holdsBytes {s : State} {p : Nat → Byte} (hm : s.frame.plen.toNat ≤ s.params.payMax)
    (hx : s.frame.xhValid = true) (hp : holdsBytes s.mem payBase s.frame.plen.toNat p) :
    exec .checksum s = .next { s with
      ckCalc := xorUpTo s.frame.xh p s.frame.plen.toNat
      flags := { s.flags with
        err := .ok
        cksumOk := s.frame.ckValid && decide (s.frame.ck = xorUpTo s.frame.xh p s.frame.plen.toNat) } } := by
  show execChecksum s = _
  rw [execChecksum, withValidFrame_of_valid hm (.inr hx), if_pos hx, payload_of_holdsBytes hp]
  simp only [finish, fold_range]
  rfl

/-! ### PARSE and SERIALIZE, one after the other (R113, R114) -/

/-- PARSE of a held datagram that SERIALIZE emitted gives back the frame it was emitted from, with the checksum emitted:
the caller's, or else the fold (R113). -/
theorem exec_parse_of_serialized {s : State} {f : Frame} {p : Nat → Byte}
    (hn : s.rxLen.toNat = 6 + f.plen.toNat) (hk : f.plen.toNat ≤ s.params.payMax)
    (hrx : holdsBytes s.mem rxBase (6 + f.plen.toNat) (serializedByte f f.plen.toNat p)) :
    ∃ u, exec .parse s = .next u ∧ u.flags.err = .ok ∧
      u.frame.hdr0 = f.hdr0 ∧ u.frame.hdr1 = f.hdr1 ∧ u.frame.xh = f.xh ∧ u.frame.xhValid = true ∧
      u.frame.plen = f.plen ∧
      holdsBytes u.mem payBase f.plen.toNat p ∧
      u.frame.len.toNat = 6 + f.plen.toNat ∧
      u.frame.ckValid = true ∧
      u.frame.ck = (if f.ckValid then f.ck else xorUpTo f.xh p f.plen.toNat) ∧
      (u.flags.cksumOk = true ↔ u.frame.ck = xorUpTo f.xh p f.plen.toNat) := by
  have hfm : s.params.frameMax = s.params.payMax + 6 := rfl
  obtain ⟨m, hst, hu⟩ := exec_parse_of_holdsBytes hn (by omega) (by omega) hrx
  rw [Nat.add_sub_cancel_left] at hst hu
  have hpay : ∀ i, i < f.plen.toNat → serializedByte f f.plen.toNat p (5 + i) = p i :=
    fun i hi => serializedByte_payload f p hi
  refine ⟨_, hu, rfl, rfl, rfl, rfl, rfl, ?_, fun i hi => ?_, ?_, rfl, ?_, ?_⟩
  · simp [receivedFrame]
  · exact (holdsBytes_of_storedBytes hst i hi).trans (congrArg some (hpay i hi))
  · exact le16_length_bytes (by omega)
  · rw [← serializedByte_ck, receivedFrame, show 6 + f.plen.toNat - 1 = 5 + f.plen.toNat by omega]
  · rw [← xorUpTo_congr f.xh hpay]
    exact decide_eq_true_iff

/-- Past its length field, a received datagram of at least 6 bytes is emitted again byte for byte (R114). -/
theorem serializedByte_receivedFrame (d : Nat → Byte) {n i : Nat} (h6 : 6 ≤ n) (h2 : 2 ≤ i) (hi : i < n) :
    serializedByte (receivedFrame d n) (n - 6) (fun j => d (5 + j)) i = d i := by
  obtain ⟨k, rfl⟩ : ∃ k, n = 6 + k := ⟨n - 6, by omega⟩
  rw [Nat.add_sub_cancel_left]
  match i, h2, hi with
  | 2, _, _ => rfl
  | 3, _, _ => rfl
  | 4, _, _ => rfl
  | j + 5, _, hi =>
    rw [Nat.add_comm j 5]
    by_cases hj : j < k
    · exact serializedByte_payload _ _ hj
    · obtain rfl : j = k := by omega
      rw [serializedByte_ck, receivedFrame, if_pos rfl, show 6 + j - 1 = 5 + j by omega]

end Sys2Proof.Machine

namespace Sys2Proof.Proofs

open Sys2Proof.Machine

/-- Settles O14: the two length checks stand before any read of `RX`. -/
theorem parseRejectsByLength : Obligations.ParseRejectsByLength := by
  unfold Obligations.ParseRejectsByLength
  exact fun s => ⟨exec_parse_of_lt_five, exec_parse_of_frameMax_lt⟩

/-- Settles O17: the order and the repetitions by associativity and commutativity, the rest by the recursion. -/
theorem foldIsRunningXor : Obligations.FoldIsRunningXor := by
  unfold Obligations.FoldIsRunningXor
  intro x s
  refine ⟨rfl, fold_concat x s, fun u => fold_perm x, ?_, fun b n => fold_replicate_even x b n s⟩
  rw [fold_concat, BitVec.xor_self]

/-- Settles O18: both commands make the shared frame checks first, and CHECKSUM then asks for an extended header. -/
theorem serializeAndChecksumErrorsInOrder : Obligations.SerializeAndChecksumErrorsInOrder := by
  unfold Obligations.SerializeAndChecksumErrorsInOrder
  intro s
  refine ⟨fun h => ?_, fun hk h0 hx => ?_, fun h => ?_, fun hk h0 hx => ?_, fun _ => exec_checksum_of_no_xh⟩
  · exact exec_serialize_of_frameError (frameError_of_payMax_lt h)
  · exact exec_serialize_of_frameError (frameError_of_no_xh hk h0 hx)
  · exact exec_checksum_of_frameError (frameError_of_payMax_lt h)
  · exact exec_checksum_of_frameError (frameError_of_no_xh hk h0 hx)

/-- Settles O19: the datagram is stored byte by byte at `TX`, in each of the two forms of the body. -/
theorem serializeEmitsDatagram : Obligations.SerializeEmitsDatagram := by
  unfold Obligations.SerializeEmitsDatagram
  exact ⟨fun s p _ hk hx hp => exec_serialize_of_holdsBytes rfl hk hx hp, fun s h0 hx => exec_serialize_of_no_xh h0 hx⟩

/-- Settles O20: CHECKSUM's fold over the payload read is the running exclusive-or. -/
theorem checksumComparesFold : Obligations.ChecksumComparesFold := by
  unfold Obligations.ChecksumComparesFold
  exact fun s p => exec_checksum_of_holdsBytes

/-- Settles O21: with an extended header the copy in `RX` is the emitted datagram, whose fields PARSE takes apart
again; without one the datagram is four bytes, one too few for PARSE. -/
theorem parseOfSerializeRoundTrips : Obligations.ParseOfSerializeRoundTrips := by
  unfold Obligations.ParseOfSerializeRoundTrips
  intro s p hl ⟨hk, hv⟩ hp
  cases hx : s.frame.xhValid with
  | false =>
    obtain ⟨_, -, ht⟩ := exec_serialize_of_no_xh (hv.resolve_right (by simp [hx])) hx
    refine ⟨_, ht, fun m _ => ⟨fun h => (Bool.false_ne_true h).elim, fun _ => ⟨rfl, ?_⟩⟩⟩
    exact exec_parse_of_lt_five (show 4 < 5 by omega)
  | true =>
    obtain ⟨_, hst, ht⟩ := exec_serialize_of_holdsBytes rfl hk hx hp
    refine ⟨_, ht, fun m hcopy => ⟨fun _ => ?_, fun h => (Bool.false_ne_true h.symm).elim⟩⟩
    have hlen : (BitVec.ofNat 16 (6 + s.frame.plen.toNat)).toNat = 6 + s.frame.plen.toNat := by
      obtain ⟨-, hmax, -⟩ := Params.legal_iff.1 hl
      rw [BitVec.toNat_ofNat]; omega
    have hrx : holdsBytes m rxBase (6 + s.frame.plen.toNat) (serializedByte s.frame s.frame.plen.toNat p) :=
      fun i hi => (hcopy i (hlen.symm ▸ hi)).trans (holdsBytes_of_storedBytes hst i hi)
    exact exec_parse_of_serialized hlen hk hrx

/-- Settles O22: PARSE keeps every byte after the length field in the frame and `PAY`, and the checksum it took is
supplied to SERIALIZE; of a 5-byte buffer the fifth byte is both extended header and checksum. -/
theorem serializeOfParseReemits : Obligations.SerializeOfParseReemits := by
  unfold Obligations.SerializeOfParseReemits
  intro s d hl h5 hm hd
  generalize hn : s.rxLen.toNat = n at h5 hm hd ⊢
  obtain ⟨-, hmax, -⟩ := Params.legal_iff.1 hl
  have hfm : s.params.frameMax = s.params.payMax + 6 := rfl
  obtain ⟨t, ht, hp, hf, hpay⟩ : ∃ t, exec .parse s = .next t ∧ t.params = s.params ∧ t.frame = receivedFrame d n ∧
      holdsBytes t.mem payBase (n - 6) (fun i => d (5 + i)) := by
    obtain ⟨_, hst, ht⟩ := exec_parse_of_holdsBytes hn h5 hm hd
    exact ⟨_, ht, rfl, rfl, holdsBytes_of_storedBytes hst⟩
  have hk : t.frame.plen.toNat = n - 6 := by rw [hf, receivedFrame, BitVec.toNat_ofNat]; omega
  obtain ⟨_, hst, hu⟩ := exec_serialize_of_holdsBytes hk (by rw [hp]; omega) (by rw [hf]; rfl) hpay
  have htx := holdsBytes_of_storedBytes hst
  rw [hf] at htx
  refine ⟨t, _, ht, hu, rfl, fun h6 => ?_, fun h5 => ?_⟩
  · have hlen : 6 + (n - 6) = n := by omega
    rw [hlen] at htx
    refine ⟨?_, ?_, ?_, fun i h2 hi => ?_⟩
    · show BitVec.ofNat 16 (6 + (n - 6)) = s.rxLen
      rw [hlen, ← hn, BitVec.ofNat_toNat, BitVec.setWidth_eq]
    · have h := htx 0 (by omega)
      rwa [serializedByte, if_pos rfl, hlen] at h
    · have h := htx 1 (by omega)
      rwa [serializedByte, if_neg (by omega), if_pos rfl, hlen] at h
    · rw [← serializedByte_receivedFrame d h6 h2 hi]
      exact htx i hi
  · subst h5
    exact ⟨rfl, htx 0 (by omega), htx 1 (by omega), htx 2 (by omega), htx 3 (by omega), htx 4 (by omega),
      htx 5 (by omega)⟩

end Sys2Proof.Proofs

/-! PROOFS. R140: a BUILD command against the host writes that load the same frame by hand, and SERIALIZE's
independence of the result code. -/

namespace Sys2Proof.Machine

/-! ### Runs of host accesses -/

@[simp] theorem afterAccesses_nil (s : State) : afterAccesses [] s = s := rfl

@[simp] theorem afterAccesses_cons (a : Access) (as : List Access) (s : State) :
    afterAccesses (a :: as) s = afterAccesses as (access a s) := rfl

theorem afterAccesses_append (as bs : List Access) (s : State) :
    afterAccesses (as ++ bs) s = afterAccesses bs (afterAccesses as s) :=
  List.foldl_append

/-- An offset inside `PAY` (R63). -/
theorem bufferMapped_of_mem_pay {p : Params} {i : Nat} (hi : i < p.payMax) : bufferMapped p (payBase + i) = true :=
  bufferMapped_iff.2 (.inr (.inr ⟨by omega, by omega⟩))

/-- A 1-byte write of `PAY[i]` stores the byte (R59). -/
theorem access_write8_pay {s : State} {i : Nat} {b : Byte} (hp : s.pending = none) (hi : i < s.params.payMax) :
    access (.write8 (payBase + i) b) s = s.setMem (Memory.write s.mem (payBase + i) b) := by
  have ht : inTx (payBase + i) = false := inTx_eq_false (.inr (by omega))
  rw [access_write8_buffer hp (bufferMapped_of_mem_pay hi), writeBuffer_of_not_inTx _ _ ht]
  rfl

/-- The host's byte writes of `PAY[k]`, `PAY[k + 1]`, ... store the bytes as one run. -/
theorem afterAccesses_payWrites {s : State} {bs : List Byte} {k : Nat} (hp : s.pending = none)
    (hk : k + bs.length ≤ s.params.payMax) :
    afterAccesses ((bs.zipIdx k).map fun b => Access.write8 (payBase + b.2) b.1) s =
      s.setMem (Memory.writeBytes s.mem (payBase + k) bs) := by
  induction bs generalizing s k with
  | nil => rfl
  | cons b bs ih =>
    rw [List.length_cons] at hk
    rw [List.zipIdx_cons, List.map_cons, afterAccesses_cons, access_write8_pay hp (by omega)]
    exact ih (s := s.setMem _) (k := k + 1) hp (by rw [State.setMem_params]; omega)

/-! ### A frame loaded by the host (R140) -/

/-- The frame registers after the host's register writes of R140, for a payload of `n` bytes. -/
def hostFrame (h0 h1 : Byte) (xhWord : Word) (n : Nat) (len : Word) : Frame where
  len := len.extractLsb' 0 16
  hdr0 := h0
  hdr1 := h1
  xh := xhWord.extractLsb' 0 8
  xhValid := xhWord.getLsbD 8
  plen := BitVec.ofNat 16 n
  ck := 0#8
  ckValid := false

theorem wordOfBytes_header (h0 h1 : Byte) :
    (wordOfBytes h0 h1 0#8 0#8).extractLsb' 0 8 = h0 ∧ (wordOfBytes h0 h1 0#8 0#8).extractLsb' 8 8 = h1 := by
  unfold wordOfBytes
  constructor <;> (ext i hi; interval_cases i <;> simp)

theorem extractLsb'_ofNat_half (n : Nat) : (BitVec.ofNat 32 n).extractLsb' 0 16 = BitVec.ofNat 16 n := by
  apply BitVec.eq_of_toNat_eq
  simp

/-- A 4-byte write of a frame register stores it (R59). -/
theorem access_write32_frame {s : State} {o : Nat} {r : Reg} {v : Word} {f : Frame} (hp : s.pending = none)
    (ho : o < 0x1000) (h4 : o % 4 = 0) (hr : regAt o = some r) (hw : writeReg r v s = some (s.setFrame f)) :
    access (.write32 o v) s = s.setFrame f := by
  rw [access_write32_reg hp ho h4 hr, hw, Option.getD_some]

/-- The host's writes of `F_HDR` and `F_XH`. -/
theorem afterAccesses_headerWrites {s : State} (h0 h1 : Byte) (xhWord : Word) (hp : s.pending = none) :
    afterAccesses [.write32 0x014 (wordOfBytes h0 h1 0#8 0#8), .write32 0x018 xhWord] s =
      s.setFrame { s.frame with
        hdr0 := h0, hdr1 := h1, xh := xhWord.extractLsb' 0 8, xhValid := xhWord.getLsbD 8 } := by
  obtain ⟨hh0, hh1⟩ := wordOfBytes_header h0 h1
  rw [afterAccesses_cons, access_write32_frame hp (by omega) rfl (r := .fHdr) rfl rfl, hh0, hh1, afterAccesses_cons,
    access_write32_frame (by exact hp) (by omega) rfl (r := .fXh) rfl rfl]
  rfl

/-- The host's writes of `F_PLEN`, `F_CK` and `F_LEN`, with no checksum supplied. -/
theorem afterAccesses_lengthWrites {s : State} (n : Nat) (len : Word) (hp : s.pending = none) :
    afterAccesses [.write32 0x01C (BitVec.ofNat 32 n), .write32 0x020 0#32, .write32 0x010 len] s =
      s.setFrame { s.frame with
        plen := BitVec.ofNat 16 n, ck := 0#8, ckValid := false, len := len.extractLsb' 0 16 } := by
  rw [afterAccesses_cons, access_write32_frame hp (by omega) rfl (r := .fPlen) rfl rfl, extractLsb'_ofNat_half,
    afterAccesses_cons, access_write32_frame (by exact hp) (by omega) rfl (r := .fCk) rfl rfl,
    afterAccesses_cons, access_write32_frame (by exact hp) (by omega) rfl (r := .fLen) rfl rfl]
  rfl

/-- The host's writes of R140 load the frame registers and `PAY`, and change nothing else. -/
theorem afterAccesses_hostFrameWrites {s : State} {bs : List Byte} (h0 h1 : Byte) (xhWord len : Word)
    (hp : s.pending = none) (hk : bs.length ≤ s.params.payMax) :
    afterAccesses (hostFrameWrites h0 h1 xhWord bs len) s =
      (s.setFrame (hostFrame h0 h1 xhWord bs.length len)).setMem (Memory.writeBytes s.mem payBase bs) := by
  have hpay (t : State) (ht : t.pending = none) (hk : bs.length ≤ t.params.payMax) :
      afterAccesses (bs.zipIdx.map fun b => Access.write8 (0x3000 + b.2) b.1) t =
        t.setMem (Memory.writeBytes t.mem payBase bs) :=
    afterAccesses_payWrites ht (k := 0) (by omega)
  rw [hostFrameWrites, afterAccesses_append, afterAccesses_append, afterAccesses_headerWrites h0 h1 xhWord hp,
    hpay _ (by exact hp) (by exact hk), afterAccesses_lengthWrites _ len (by exact hp)]
  rfl

/-- A builder whose frame fields are those of the host's words leaves what the host's writes leave, but for the code
(R130, R131, R140). -/
theorem build_eq_hostFrameWrites {s : State} {h0 h1 : Byte} {xh : Option Byte} {bs : List Byte} {xhWord len : Word}
    (hp : s.pending = none) (hk : bs.length ≤ s.params.payMax)
    (hf : builtFrame h0 h1 xh bs.length = hostFrame h0 h1 xhWord bs.length len) :
    build h0 h1 xh bs s = .next (onlyErr (afterAccesses (hostFrameWrites h0 h1 xhWord bs len) s) .ok) := by
  rw [build, hf, afterAccesses_hostFrameWrites h0 h1 xhWord len hp hk]
  rfl

/-! ### SERIALIZE does not look at the result code -/

/-- With another code before it, SERIALIZE answers the same next state, but for the code where it leaves that alone
(R46, R140). -/
theorem exec_serialize_onlyErr (s : State) (e : ErrCode) :
    ∃ t c, exec .serialize s = .next t ∧ exec .serialize (onlyErr s e) = .next (onlyErr t c) := by
  cases hf : frameError s with
  | some c => exact ⟨_, c, exec_serialize_of_frameError hf, exec_serialize_of_frameError (s := onlyErr s e) hf⟩
  | none =>
    obtain ⟨hk, hv⟩ := frameError_eq_none.1 hf
    show ∃ t c, execSerialize s = .next t ∧ execSerialize (onlyErr s e) = .next (onlyErr t c)
    rw [execSerialize, execSerialize, withValidFrame_of_valid hk hv, withValidFrame_of_valid (s := onlyErr s e) hk hv]
    cases hx : s.frame.xhValid with
    | false =>
      refine ⟨_, .ok, rfl, ?_⟩
      rw [show (onlyErr s e).frame.xhValid = false from hx]
      rfl
    | true =>
      rw [show (onlyErr s e).frame.xhValid = true from hx, show payload (onlyErr s e) = payload s from rfl]
      cases payload s with
      | none => exact ⟨_, e, rfl, rfl⟩
      | some p => exact ⟨_, .ok, rfl, rfl⟩

end Sys2Proof.Machine

namespace Sys2Proof.Proofs

open Sys2Proof.Machine

/-- Settles O25: the host's writes load the registers one by one and `PAY` byte by byte, each builder's frame is the one
they load, and SERIALIZE's next state depends on the code only in its code. -/
theorem buildEqualsHostWrites : Obligations.BuildEqualsHostWrites := by
  unfold Obligations.BuildEqualsHostWrites
  intro s hl hp
  obtain ⟨h4, -⟩ := Params.legal_iff.1 hl
  have hsub : 3 ≤ s.params.payMax := by omega
  refine ⟨?_, ?_, ?_, fun hi lo => ?_, fun t e => ?_⟩
  · exact build_eq_hostFrameWrites hp (Nat.zero_le _) rfl
  · exact build_eq_hostFrameWrites hp (Nat.zero_le _) rfl
  · exact build_eq_hostFrameWrites hp hsub rfl
  · exact build_eq_hostFrameWrites hp hsub rfl
  · obtain ⟨u, c, hu, hv⟩ := exec_serialize_onlyErr t e
    exact ⟨u, onlyErr u c, hu, hv, rfl, rfl⟩

end Sys2Proof.Proofs

/-! PROOFS. R149: the fields DECODE does not read, and what it answers when only they differ. -/

namespace Sys2Proof.Machine

/-! ### States that differ in what DECODE does not read -/

/-- Values for the fields DECODE does not read (R149), and for the number of draws taken. -/
structure Unread where
  ck : Byte
  ckValid : Bool
  len : Half
  ckCalc : Byte
  cksumOk : Bool
  draws : Nat

/-- Replace the fields DECODE does not read, and the number of draws taken. -/
def State.withUnread (s : State) (x : Unread) : State :=
  { s with
    frame := { s.frame with ck := x.ck, ckValid := x.ckValid, len := x.len }
    ckCalc := x.ckCalc
    flags := { s.flags with cksumOk := x.cksumOk }
    draws := x.draws }

/-- Replace the decoded speed. -/
def State.withSpeed (s : State) (v : BitVec 7) : State := { s with status := { s.status with speed := v } }

/-- `u` is `t` but for the fields DECODE does not read, and for the speed where it is a free value (R149, R156). -/
def AgreeOnDecoded (t u : State) : Prop :=
  (∃ x v, u = (t.withUnread x).withSpeed v) ∧
    (t.flags.err ≠ .unknownSpeedStepMode ∨ t.params.unknownModeSpeed = .zero → u.status.speed = t.status.speed)

/-- `f` answers a next state from `s`, and one that agrees with it from `s` with any other values in the fields DECODE
does not read. -/
def IgnoresUnread (f : State → Host.Outcome State Fault Refusal) (s : State) : Prop :=
  ∀ x, ∃ t u, f s = .next t ∧ f (s.withUnread x) = .next u ∧ AgreeOnDecoded t u

theorem agreeOnDecoded_withUnread (t : State) (x : Unread) : AgreeOnDecoded t (t.withUnread x) :=
  ⟨⟨x, t.status.speed, rfl⟩, fun _ => rfl⟩

/-! ### What DECODE's checks and operands read -/

@[simp] theorem frameError_withUnread (s : State) (x : Unread) : frameError (s.withUnread x) = frameError s := rfl

@[simp] theorem isStatusFrame_withUnread (s : State) (x : Unread) :
    isStatusFrame (s.withUnread x).frame = isStatusFrame s.frame := rfl

@[simp] theorem plen_withUnread (s : State) (x : Unread) : (s.withUnread x).frame.plen = s.frame.plen := rfl

@[simp] theorem decodePayload_withUnread (s : State) (x : Unread) :
    payloadBytes (s.withUnread x) (decodeLength (s.withUnread x)) = payloadBytes s (decodeLength s) := rfl

/-! ### DECODE, from its ends up to its first check -/

theorem raiseErr_ignoresUnread (e : ErrCode) (s : State) : IgnoresUnread (raiseErr e) s :=
  fun x => ⟨_, _, rfl, rfl, agreeOnDecoded_withUnread (s.setErr e) x⟩

theorem hostFault_ignoresUnread (k : HostFault) (s : State) : IgnoresUnread (hostFault k) s :=
  fun x => ⟨_, _, rfl, rfl, agreeOnDecoded_withUnread (s.setFault k) x⟩

/-- The answers of two Unknown-mode decodes differ in the draw alone, and under `ZERO` in nothing (R156). -/
theorem unknownMode_agreeOnDecoded (s : State) (x : Unread) (r : StatusRecord) (trunc : Bool) :
    AgreeOnDecoded
      (((countUnknownDraw s).setStatus { r with speed := unknownSpeed s.params.unknownModeSpeed s.draws }
        trunc).setErr .unknownSpeedStepMode)
      (((countUnknownDraw (s.withUnread x)).setStatus { r with speed := unknownSpeed s.params.unknownModeSpeed x.draws }
        trunc).setErr .unknownSpeedStepMode) := by
  refine ⟨⟨{ x with draws := (countUnknownDraw (s.withUnread x)).draws },
    unknownSpeed s.params.unknownModeSpeed x.draws, ?_⟩, fun hfree => ?_⟩
  · rw [countUnknownDraw_eq s, countUnknownDraw_eq (s.withUnread x)]
    rfl
  · have hzero : s.params.unknownModeSpeed = .zero := by simpa using hfree
    rw [hzero]
    rfl

theorem decodeWrites_ignoresUnread (p : List Byte) (s : State) : IgnoresUnread (decodeWrites p) s := by
  intro x
  unfold decodeWrites
  cases knownSpeed (selector p) (magnitude p) with
  | some mv => exact ⟨_, _, rfl, rfl, agreeOnDecoded_withUnread ((s.setStatus _ _).setErr .ok) x⟩
  | none =>
    exact ⟨_, _, rfl, rfl, unknownMode_agreeOnDecoded s x
      (statusRecord s.params p s.frame.plen.toNat .unknown 0#7) (truncated s.params s.frame.plen.toNat)⟩

theorem decodeStatus_ignoresUnread (s : State) : IgnoresUnread decodeStatus s := by
  intro x
  unfold decodeStatus
  rw [plen_withUnread, decodePayload_withUnread]
  by_cases h4 : s.frame.plen.toNat < 4
  · rw [if_pos h4, if_pos h4]
    exact raiseErr_ignoresUnread .shortStatusPayload s x
  · rw [if_neg h4, if_neg h4]
    cases payloadBytes s (decodeLength s) with
    | none => exact hostFault_ignoresUnread .unwrittenRead s x
    | some p => exact decodeWrites_ignoresUnread p s x

/-- R149: on every path DECODE's answer depends neither on the fields it does not read nor, but for a drawn speed, on
the draws taken before it. -/
theorem execDecode_ignoresUnread (s : State) : IgnoresUnread execDecode s := by
  intro x
  unfold execDecode withValidFrame
  rw [frameError_withUnread]
  cases frameError s with
  | some e => exact raiseErr_ignoresUnread e s x
  | none =>
    dsimp only
    rw [isStatusFrame_withUnread]
    cases isStatusFrame s.frame with
    | true => exact decodeStatus_ignoresUnread s x
    | false => exact raiseErr_ignoresUnread .unexpectedFrameType s x

end Sys2Proof.Machine

namespace Sys2Proof.Proofs

open Sys2Proof.Machine

/-- Settles O31: each check, operand and write of DECODE is the same whatever the unread fields hold, and the draws
reach only the Unknown-mode speed. -/
theorem decodeIgnoresChecksumAndLength : Obligations.DecodeIgnoresChecksumAndLength := by
  unfold Obligations.DecodeIgnoresChecksumAndLength
  intro s ck ckValid len calculated cksumOk n
  obtain ⟨t, u, ht, hu, ⟨x, v, rfl⟩, hspeed⟩ := execDecode_ignoresUnread s ⟨ck, ckValid, len, calculated, cksumOk, n⟩
  rw [(execDecode_effect ht).params_eq] at hspeed
  exact ⟨t, _, ht, hu, rfl, hspeed, rfl, rfl, rfl, rfl⟩

end Sys2Proof.Proofs

/-! PROOFS. The state a reset leaves (R210), and what the commands give right after it (R214). -/

namespace Sys2Proof.Machine

/-! ### The frame a reset leaves -/

theorem validFrame_resetBlock (s : State) : validFrame s.resetBlock :=
  ⟨Nat.zero_le _, .inl rfl⟩

/-! ### Commands whose result code is fixed by the frame alone -/

/-- DECODE ignores a valid frame that is not of the status class (R147). -/
theorem exec_decode_of_not_statusFrame {s : State} (hv : validFrame s) (hf : isStatusFrame s.frame = false) :
    exec .decode s = .next (onlyErr s .unexpectedFrameType) := by
  obtain ⟨hk, h0⟩ := hv
  show execDecode s = _
  rw [execDecode, withValidFrame_of_valid hk h0, hf]
  rfl

/-- NOP and the frame builders read nothing that can be missing, and end with `finish(OK)` (R100, R131). -/
theorem exec_finishes_ok {i : Instr}
    (h : i = .nop ∨ i = .buildLogoff ∨ i = .buildLogin ∨ i = .buildSubAll ∨ ∃ hi lo, i = .buildSubLoco hi lo)
    (s : State) : ∃ t, exec i s = .next t ∧ t.flags.err = .ok := by
  rcases h with rfl | rfl | rfl | rfl | ⟨hi, lo, rfl⟩ <;> exact ⟨_, rfl, rfl⟩

/-- SERIALIZE of a valid frame without an extended header: the four bytes in `TX`, as one list (R111). -/
theorem exec_serialize_of_no_xh_readBytes {s : State} (h0 : s.frame.plen.toNat = 0) (hx : s.frame.xhValid = false) :
    ∃ t, exec .serialize s = .next t ∧
      Memory.readBytes t.mem txBase 4 = some [4#8, 0#8, s.frame.hdr0, s.frame.hdr1] ∧
      t.txLen = 4#16 ∧ t.frame.len = 4#16 ∧ t.flags.err = .ok := by
  obtain ⟨m, hm, ht⟩ := exec_serialize_of_no_xh h0 hx
  exact ⟨_, ht, Memory.readBytes_of_read (holdsBytes_of_storedBytes hm), rfl, rfl, rfl⟩

end Sys2Proof.Machine

namespace Sys2Proof.Proofs

open Sys2Proof.Machine

/-- Settles O50: each field of the fixed state has R210's value, and `resetBlock` carries the parameters and `FAULT`
over. -/
theorem resetStateIsAsStated : Obligations.ResetStateIsAsStated := by
  unfold Obligations.ResetStateIsAsStated
  exact ⟨rfl, rfl, rfl, rfl, rfl, rfl, rfl, rfl, rfl, rfl, rfl, rfl, rfl, rfl, rfl, rfl, rfl, rfl, rfl, rfl, rfl,
    Memory.read_nil, rfl, fun s => ⟨s.resetBlock_params, s.resetBlock_fault⟩⟩

/-- Settles O52: the frame a reset leaves is valid, has no extended header and no payload and is not of the status
class, and `RX_LEN` is 0, so each command takes the branch of that case. -/
theorem commandsAfterReset : Obligations.CommandsAfterReset := by
  unfold Obligations.CommandsAfterReset
  intro s
  have hplen : s.resetBlock.frame.plen.toNat = 0 := rfl
  have hxh : s.resetBlock.frame.xhValid = false := rfl
  have hrx : s.resetBlock.rxLen.toNat < 5 := Nat.zero_lt_succ 4
  refine ⟨⟨validFrame_resetBlock s, rfl, rfl, rfl, rfl⟩, ?_, ?_, ?_, ?_, ?_⟩
  · exact exec_serialize_of_no_xh_readBytes hplen hxh
  · exact exec_checksum_of_no_xh hplen hxh
  · exact exec_decode_of_not_statusFrame (validFrame_resetBlock s) rfl
  · exact exec_parse_of_lt_five hrx
  · exact fun i h => exec_finishes_ok h s.resetBlock

end Sys2Proof.Proofs

/-! PROOFS. The encodings both ways: command words (R80, R81) and wire keys (R88, R89), and the words of the tables. -/

namespace Sys2Proof

/-! ### Command words -/

/-- R81: a fixed row's word is its `OP` with both operands 0. -/
theorem encode_of_fixedCommand {op : Byte} {i : Instr} (h : fixedCommand op = some i) :
    encode i = commandWord op 0#8 0#8 ∧ i.isCommand = true := by
  unfold fixedCommand at h
  iterate 8
    obtain ⟨rfl, rfl⟩ | h := Machine.of_ite_some h
    · exact ⟨rfl, rfl⟩
  cases h

/-- The word of a command is the only one that decodes to it. -/
theorem encode_of_decodeCommand {w : Word} {i : Instr} (h : decodeCommand w = .ok i) :
    encode i = w ∧ i.isCommand = true := by
  obtain ⟨hr, ⟨ho, rfl⟩ | ⟨-, hf, h0, h1⟩⟩ := decodeCommand_eq_ok.1 h
  · have hw := commandWord_of_fields hr
    rw [ho] at hw
    exact ⟨hw, rfl⟩
  · obtain ⟨he, hc⟩ := encode_of_fixedCommand hf
    have hw := commandWord_of_fields hr
    rw [h0, h1] at hw
    exact ⟨he.trans hw, hc⟩

/-- Every command decodes from its word, with both operand bytes. -/
theorem decodeCommand_encode {i : Instr} (h : i.isCommand = true) : decodeCommand (encode i) = .ok i := by
  cases i with
  | buildSubLoco hi lo => exact decodeCommand_eq_ok.2 (by simp [encode])
  | logoff | login | subscribeAll | subscribeOne | locoStatus => cases h
  | _ => rfl

/-! ### Wire keys -/

/-- R88: the five classes, each with its key. -/
theorem decodeWire_eq_some {k : BitVec 25} {i : Instr} (h : decodeWire k = some i) :
    (i = .logoff (keyXh k) ∧ k = wireKey 0x30#8 0x00#8 (keyXh k) false) ∨
    (i = .login (keyXh k) ∧ k = wireKey 0x10#8 0x01#8 (keyXh k) false) ∨
    (i = .subscribeAll ∧ k = wireKey 0x50#8 0x00#8 0x00#8 true) ∨
    (i = .subscribeOne ∧ k = wireKey 0x40#8 0x00#8 0xE3#8 true) ∨
    (i = .locoStatus ∧ k = wireKey 0x40#8 0x00#8 0xEF#8 true) := by
  have hk := wireKey_of_fields k
  unfold decodeWire at h
  cases hv : keyXhValid k with
  | false =>
    rw [hv] at hk
    rw [hv, if_neg Bool.false_ne_true] at h
    obtain ⟨⟨h0, h1⟩, rfl⟩ | h := Machine.of_ite_some h
    · rw [h0, h1] at hk
      exact .inl ⟨rfl, hk.symm⟩
    · obtain ⟨⟨h0, h1⟩, rfl⟩ := (Machine.of_ite_some h).resolve_right (by simp)
      rw [h0, h1] at hk
      exact .inr (.inl ⟨rfl, hk.symm⟩)
  | true =>
    rw [hv] at hk
    rw [hv, if_pos rfl] at h
    obtain ⟨⟨h0, h1, hx⟩, rfl⟩ | h := Machine.of_ite_some h
    · rw [h0, h1, hx] at hk
      exact .inr (.inr (.inl ⟨rfl, hk.symm⟩))
    · obtain ⟨⟨h0, h1, hx⟩, rfl⟩ | h := Machine.of_ite_some h
      · rw [h0, h1, hx] at hk
        exact .inr (.inr (.inr (.inl ⟨rfl, hk.symm⟩)))
      · obtain ⟨⟨h0, h1, hx⟩, rfl⟩ := (Machine.of_ite_some h).resolve_right (by simp)
        rw [h0, h1, hx] at hk
        exact .inr (.inr (.inr (.inr ⟨rfl, hk.symm⟩)))

/-- Every wire class is found from its word's key. -/
theorem decodeWire_encode {i : Instr} (h : i.isCommand = false) : decodeWire ((encode i).setWidth 25) = some i := by
  cases i with
  | logoff xh | login xh => simp [encode, decodeWire]
  | subscribeAll | subscribeOne | locoStatus => rfl
  | _ => cases h

/-! ### The two sets of words are disjoint -/

/-- The key in a command word's low 25 bits has the word's `OP` and `A0` as its header, and `XH_VALID` = 0. -/
theorem key_of_rsvd_zero {w : Word} (h : rsvdField w = 0#8) :
    keyHdr0 (w.setWidth 25) = opField w ∧ keyHdr1 (w.setWidth 25) = a0Field w ∧
      keyXhValid (w.setWidth 25) = false := by
  have h24 : (rsvdField w).getLsbD 0 = w.getLsbD 24 := by simp [rsvdField]
  refine ⟨?_, ?_, ?_⟩
  · unfold keyHdr0 opField; ext n hn; interval_cases n <;> simp
  · unfold keyHdr1 a0Field; ext n hn; interval_cases n <;> simp
  · rw [h] at h24
    simpa [keyXhValid] using h24.symm

/-- A command word's low 25 bits are no wire key: no row of R81 has `OP` 0x30, and with `OP` 0x10 its `A0` is 0. -/
theorem decodeWire_of_decodeCommand {w : Word} {i : Instr} (h : decodeCommand w = .ok i) :
    decodeWire (w.setWidth 25) = none := by
  obtain ⟨hr, hrow⟩ := decodeCommand_eq_ok.1 h
  obtain ⟨h0, h1, hv⟩ := key_of_rsvd_zero hr
  rw [decodeWire, hv, h0, h1, if_neg Bool.false_ne_true]
  obtain ⟨ho, -⟩ | ⟨-, hf, ha, -⟩ := hrow
  · simp [ho]
  · have hno : opField w ≠ 0x30#8 := fun ho => by
      have := fixedCommand_range hf
      rw [ho] at this
      simp at this
    simp [hno, ha]

/-! ### Rows of the table, from words and from bytes -/

theorem decodeRow_encode (i : Instr) : decodeRow (encode i) = .ok i := by
  cases hi : i.isCommand with
  | true => rw [decodeRow, decodeCommand_encode hi]
  | false =>
    have hw := decodeWire_encode hi
    cases hc : decodeCommand (encode i) with
    | ok j => rw [decodeWire_of_decodeCommand hc] at hw; cases hw
    | error e => rw [decodeRow, hc]; dsimp only; rw [hw]

/-- The decoder reads a word's four bytes as the word, and gives the rest back. -/
theorem decodeBytes_bytesOfWord (w : Word) (rest : List Byte) :
    decodeBytes (bytesOfWord w ++ rest) = (decodeRow w).map (·, rest) := by
  simp only [bytesOfWord, List.cons_append, List.nil_append, decodeBytes, wordOfBytes_of_bytes]
  cases decodeRow w <;> rfl

end Sys2Proof

namespace Sys2Proof.Proofs

open Sys2Proof.Machine

/-- Settles O1: a command decodes from its word; a wire class's word is no command word, because its key would then be
none, so the key is looked up. -/
theorem decodeEncodeRoundTrip : Obligations.DecodeEncodeRoundTrip := by
  unfold Obligations.DecodeEncodeRoundTrip
  intro i rest
  refine ⟨decodeRow_encode i, ?_⟩
  rw [decodeBytes_bytesOfWord, decodeRow_encode]
  rfl

/-- Settles O2: a command word is put together from its fields, and its low 25 bits have no wire header. -/
theorem commandWordHasOneReading : Obligations.CommandWordHasOneReading := by
  unfold Obligations.CommandWordHasOneReading
  intro w i h
  obtain ⟨he, hc⟩ := encode_of_decodeCommand h
  exact ⟨he, hc, decodeWire_of_decodeCommand h⟩

/-- Settles O3: a key is put together from its fields, which its class fixes. -/
theorem wireKeyHasOneReading : Obligations.WireKeyHasOneReading := by
  unfold Obligations.WireKeyHasOneReading
  intro k i h
  rcases decodeWire_eq_some h with ⟨rfl, hk⟩ | ⟨rfl, hk⟩ | ⟨rfl, hk⟩ | ⟨rfl, hk⟩ | ⟨rfl, hk⟩ <;>
    exact ⟨congrArg (BitVec.setWidth 32) hk.symm, rfl⟩

/-- Settles O5: each word is run through the decoder. -/
theorem specWordsDecode : Obligations.SpecWordsDecode := by
  unfold Obligations.SpecWordsDecode
  decide

end Sys2Proof.Proofs

/-! PROOFS. The step (R180, R193): wire classes and DECODE (R147), the engine's turn, host accesses, resets, and that
every step answers. -/

namespace Sys2Proof.Machine

/-! ### Wire classes and DECODE -/

/-- R147's byte comparison is the key of class LOCO_STATUS. -/
theorem isStatusFrame_iff {f : Frame} :
    isStatusFrame f = true ↔ f.hdr0 = 0x40#8 ∧ f.hdr1 = 0x00#8 ∧ f.xhValid = true ∧ f.xh = 0xEF#8 := by
  simp [isStatusFrame, and_assoc]

/-- The fields of a frame are those of its key. -/
theorem fields_of_frameKey {f : Frame} {a b c : Byte} {v : Bool} (h : frameKey f = wireKey a b c v) :
    f.hdr0 = a ∧ f.hdr1 = b ∧ f.xh = c ∧ f.xhValid = v := by
  unfold frameKey at h
  refine ⟨?_, ?_, ?_, ?_⟩
  · simpa using congrArg keyHdr0 h
  · simpa using congrArg keyHdr1 h
  · simpa using congrArg keyXh h
  · simpa using congrArg keyXhValid h

/-- The class found by the key: LOCO_STATUS for a status frame, one of the ignored four otherwise. -/
theorem frameClass_eq_some {f : Frame} {i : Instr} (h : frameClass f = some i) :
    (i = .locoStatus ∧ isStatusFrame f = true) ∨
    (((∃ xh, i = .logoff xh) ∨ (∃ xh, i = .login xh) ∨ i = .subscribeAll ∨ i = .subscribeOne) ∧
      isStatusFrame f = false) := by
  rcases decodeWire_eq_some h with ⟨hi, hk⟩ | ⟨hi, hk⟩ | ⟨hi, hk⟩ | ⟨hi, hk⟩ | ⟨hi, hk⟩ <;>
    obtain ⟨h0, h1, hx, hv⟩ := fields_of_frameKey hk
  · exact .inr ⟨.inl ⟨_, hi⟩, by simp [isStatusFrame, hv]⟩
  · exact .inr ⟨.inr (.inl ⟨_, hi⟩), by simp [isStatusFrame, hv]⟩
  · exact .inr ⟨.inr (.inr (.inl hi)), by simp [isStatusFrame, h0]⟩
  · exact .inr ⟨.inr (.inr (.inr hi)), by simp [isStatusFrame, hx]⟩
  · exact .inl ⟨hi, isStatusFrame_iff.2 ⟨h0, h1, hv, hx⟩⟩

/-- The four classes DECODE does not read are ignored, once the frame checks are made. -/
theorem exec_of_ignoredClass {i : Instr}
    (h : (∃ xh, i = .logoff xh) ∨ (∃ xh, i = .login xh) ∨ i = .subscribeAll ∨ i = .subscribeOne) (s : State) :
    exec i s = withValidFrame s ignoreFrame := by
  rcases h with ⟨xh, rfl⟩ | ⟨xh, rfl⟩ | rfl | rfl <;> rfl

/-- DECODE makes the frame checks, and then reads a status frame and ignores any other. -/
theorem exec_decode_eq (s : State) :
    exec .decode s = withValidFrame s (if isStatusFrame s.frame then decodeStatus else ignoreFrame) := by
  show execDecode s = _
  unfold execDecode withValidFrame
  cases frameError s with
  | some e => rfl
  | none => cases hf : isStatusFrame s.frame <;> simp [hf]

theorem exec_of_frameClass {s : State} {i : Instr} (h : frameClass s.frame = some i) : exec i s = exec .decode s := by
  rw [exec_decode_eq]
  obtain ⟨rfl, hf⟩ | ⟨hi, hf⟩ := frameClass_eq_some h
  · rw [hf]; rfl
  · rw [hf, exec_of_ignoredClass hi]; rfl

/-- Looking the class up does not change what a command does. -/
theorem exec_withFrameClass (s : State) (i : Instr) : exec (withFrameClass s i) s = exec i s := by
  unfold withFrameClass
  by_cases hi : i = .decode
  · rw [if_pos hi, hi]
    cases hc : frameClass s.frame with
    | none => rfl
    | some c => exact exec_of_frameClass hc
  · rw [if_neg hi]

/-! ### Every instruction answers -/

theorem withValidFrame_answers {s : State} {body : State → Host.Outcome State Fault Refusal}
    (h : ∃ t, body s = .next t) : ∃ t, withValidFrame s body = .next t := by
  unfold withValidFrame
  cases frameError s with
  | some e => exact ⟨_, rfl⟩
  | none => exact h

theorem execParse_answers (s : State) : ∃ t, execParse s = .next t := by
  unfold execParse
  split
  · exact ⟨_, rfl⟩
  · split
    · exact ⟨_, rfl⟩
    · cases rxDatagram s <;> exact ⟨_, rfl⟩

theorem execSerialize_answers (s : State) : ∃ t, execSerialize s = .next t := by
  refine withValidFrame_answers ?_
  split
  · cases payload s <;> exact ⟨_, rfl⟩
  · exact ⟨_, rfl⟩

theorem execChecksum_answers (s : State) : ∃ t, execChecksum s = .next t := by
  refine withValidFrame_answers ?_
  split
  · cases payload s <;> exact ⟨_, rfl⟩
  · exact ⟨_, rfl⟩

theorem decodeStatus_answers (s : State) : ∃ t, decodeStatus s = .next t := by
  unfold decodeStatus
  split
  · exact ⟨_, rfl⟩
  · cases payloadBytes s (decodeLength s) with
    | none => exact ⟨_, rfl⟩
    | some p =>
      dsimp only [decodeWrites]
      cases knownSpeed (selector p) (magnitude p) <;> exact ⟨_, rfl⟩

/-- No command waits and none stops the block (R181). -/
theorem exec_answers (i : Instr) (s : State) : ∃ t, exec i s = .next t := by
  have hignore : ∃ t, withValidFrame s ignoreFrame = .next t := withValidFrame_answers ⟨_, rfl⟩
  cases i with
  | nop | buildLogoff | buildLogin | buildSubAll | buildSubLoco => exact ⟨_, rfl⟩
  | parse => exact execParse_answers s
  | serialize => exact execSerialize_answers s
  | checksum => exact execChecksum_answers s
  | decode =>
    rw [exec_decode_eq]
    refine withValidFrame_answers ?_
    split
    · exact decodeStatus_answers s
    · exact ⟨_, rfl⟩
  | logoff | login | subscribeAll | subscribeOne => exact hignore
  | locoStatus => exact withValidFrame_answers (decodeStatus_answers s)

/-! ### What an instruction leaves to the end of the engine's turn -/

/-- No command touches `PENDING`; the engine's step clears it afterwards (R180). -/
theorem Effect.pending_eq {i : Instr} {s t : State} (h : Effect i s t) : t.pending = s.pending := by
  cases h with
  | decodedUnknown => exact countUnknownDraw_pending s
  | _ => rfl

/-- The one host fault a command can raise is a read of a byte with no value (R46, R193). -/
theorem Effect.fault_eq {i : Instr} {s t : State} (h : Effect i s t) :
    t.fault = s.fault ∨ t.fault = some .unwrittenRead := by
  cases h with
  | unwritten => exact .inr rfl
  | decodedUnknown => exact .inl (countUnknownDraw_fault s)
  | _ => exact .inl rfl

/-! ### The step, move by move -/

theorem engineStep_of_idle {s : State} (hp : s.pending = none) : engineStep s = .next s := by
  rw [engineStep, hp]

/-- R180: the engine's turn on a command word is the command, and then the end of the command. -/
theorem engineStep_of_decodeCommand {s : State} {w : Word} {i : Instr} (hp : s.pending = some w)
    (hd : decodeCommand w = .ok i) : engineStep s = afterExec (exec i s) := by
  rw [← exec_withFrameClass s i]
  simp only [engineStep, hp, fetch, hd]

theorem step_of_reset {s : State} {ms : List Move} (hm : s.moves = .reset :: ms) :
    step s = .next (s.setMoves ms).resetBlock := by
  rw [step, machineStep, hm]

theorem step_of_host {s : State} {a : Access} {ms : List Move} (hm : s.moves = .host a :: ms) (hf : s.fault = none) :
    step s = .next (access a (s.setMoves ms)) := by
  simp only [step, machineStep, hm, hf]

/-- R193: with a host fault recorded no agent steps. -/
theorem step_of_fault {s : State} {k : HostFault} (hf : s.fault = some k) (hm : ∀ ms, s.moves ≠ .reset :: ms) :
    step s = .fault (.hostFault k) := by
  unfold step machineStep
  split
  · next ms h => exact absurd h (hm ms)
  all_goals rw [hf]

/-- The engine's turn ends the command unless a byte with no value was read (R46, R180). -/
theorem engineStep_answers {s : State} (hf : s.fault = none) :
    ∃ t, engineStep s = .next t ∧ (t.pending = none ∨ (t.fault = some .unwrittenRead ∧ t.pending = s.pending)) := by
  cases hp : s.pending with
  | none => exact ⟨s, engineStep_of_idle hp, .inl hp⟩
  | some w =>
    cases hd : decodeCommand w with
    | error e => exact ⟨_, engineStep_of_decodeCommand_error hf hp hd, .inl rfl⟩
    | ok i =>
      obtain ⟨u, hu⟩ := exec_answers i s
      refine ⟨endCommand u, by rw [engineStep_of_decodeCommand hp hd, hu]; rfl, ?_⟩
      have he := exec_effect hu
      cases huf : u.fault with
      | none => exact .inl (by rw [endCommand_of_unfaulted huf]; rfl)
      | some k =>
        have hk : u.fault = some .unwrittenRead := he.fault_eq.resolve_left (by simp [hf, huf])
        have hend : endCommand u = u := by simp [endCommand, huf]
        exact .inr ⟨by rw [hend, hk], by rw [hend, he.pending_eq, hp]⟩

/-! ### A placed word -/

theorem decodeRow_of_decodeTableWord {nbits w : Nat} {i : Instr} (h : decodeTableWord nbits w = some i) :
    decodeRow (tableWord nbits w) = .ok i := by
  rw [decodeTableWord, ← List.append_nil (bytesOfWord _), decodeBytes_bytesOfWord] at h
  cases hd : decodeRow (tableWord nbits w) with
  | error e => rw [hd] at h; cases h
  | ok j => rw [hd] at h; cases h; rfl

/-- A row is a command word, or else a wire class's key. -/
theorem decodeRow_eq_ok {w : Word} {i : Instr} (h : decodeRow w = .ok i) :
    decodeCommand w = .ok i ∨ (∃ e, decodeCommand w = .error e) ∧ decodeWire (w.setWidth 25) = some i := by
  unfold decodeRow at h
  cases hc : decodeCommand w with
  | ok j => rw [hc] at h; exact .inl h
  | error e =>
    rw [hc] at h
    cases hw : decodeWire (w.setWidth 25) with
    | none => rw [hw] at h; cases h
    | some j => rw [hw] at h; cases h; exact .inr ⟨⟨e, rfl⟩, rfl⟩

theorem frameClass_frameWithKey (k : BitVec 25) (f : Frame) : frameClass (frameWithKey k f) = decodeWire k := by
  rw [frameClass, frameKey, frameWithKey, wireKey_of_fields]

/-- Placing a word gives the engine the next turn, with no host fault, and makes a command word pending that decodes to
the instruction or, for a wire class, to DECODE of a frame of that class. -/
theorem placeWord_ready (s : State) {x : Word} {i : Instr} (h : decodeRow x = .ok i) :
    (placeWord s x).moves = .engine :: s.moves ∧ (placeWord s x).fault = none ∧
      ∃ w, (placeWord s x).pending = some w ∧
        (decodeCommand w = .ok i ∨ decodeCommand w = .ok .decode ∧ frameClass (placeWord s x).frame = some i) := by
  obtain hc | ⟨⟨e, hc⟩, hw⟩ := decodeRow_eq_ok h
  · have hplace : placeWord s x = State.setCommand { s with moves := .engine :: s.moves, fault := none } x := by
      simp only [placeWord, hc]
    rw [hplace]
    exact ⟨rfl, rfl, x, rfl, .inl hc⟩
  · have hplace : placeWord s x = (State.setFrame { s with moves := .engine :: s.moves, fault := none }
        (frameWithKey (x.setWidth 25) s.frame)).setCommand (encode .decode) := by
      simp only [placeWord, hc, hw]
    rw [hplace]
    have hclass := (frameClass_frameWithKey (x.setWidth 25) s.frame).trans hw
    exact ⟨rfl, rfl, encode .decode, rfl, .inr ⟨decodeCommand_encode rfl, hclass⟩⟩

/-- The step from a placed word is its instruction, and then the end of the command. -/
theorem step_placeWord (s : State) {x : Word} {i : Instr} (h : decodeRow x = .ok i) :
    step (placeWord s x) = afterExec (exec i ((placeWord s x).setMoves s.moves)) := by
  obtain ⟨hm, hf, w, hp, hd⟩ := placeWord_ready s h
  have hp' : ((placeWord s x).setMoves s.moves).pending = some w := hp
  have hn : engineNext (placeWord s x) ((placeWord s x).setMoves s.moves) := ⟨hf, .inr ⟨s.moves, hm, rfl⟩⟩
  rw [step_of_engineNext hn]
  obtain hd | ⟨hd, hc⟩ := hd
  · exact engineStep_of_decodeCommand hp' hd
  · have hc' : frameClass ((placeWord s x).setMoves s.moves).frame = some i := hc
    rw [engineStep_of_decodeCommand hp' hd, exec_of_frameClass hc']

end Sys2Proof.Machine

namespace Sys2Proof.Proofs

open Sys2Proof.Machine

/-- Settles O7: the key of class LOCO_STATUS is the header and extended header R147 compares, and the other classes'
meaning is to be ignored. -/
theorem wireClassRefinesDecode : Obligations.WireClassRefinesDecode := by
  unfold Obligations.WireClassRefinesDecode
  exact fun s i => exec_of_frameClass

/-- Settles O6: the engine's turn runs the command, and what it does at the end depends on `FAULT` alone. -/
theorem stepRunsPendingCommand : Obligations.StepRunsPendingCommand := by
  unfold Obligations.StepRunsPendingCommand
  intro s s0 w i hn hp hd
  rw [step_of_engineNext hn, engineStep_of_decodeCommand hp hd]
  refine ⟨fun t ht hf => ?_, fun t ht hf => ?_⟩
  · rw [ht, afterExec, endCommand_of_unfaulted hf]
    rfl
  · rw [ht, afterExec, endCommand, if_pos (Option.isSome_iff_ne_none.2 hf)]

/-- Settles O8: the placed word is pending with the engine next; a wire class's key is in the frame registers, where
DECODE finds the class. -/
theorem stepRunsPlacedWord : Obligations.StepRunsPlacedWord := by
  unfold Obligations.StepRunsPlacedWord
  intro s nbits w i h
  exact step_placeWord s (decodeRow_of_decodeTableWord h)

/-- Settles O9: a reset and a host access answer by definition, and the engine's turn because every instruction does. -/
theorem unfaultedStepAnswers : Obligations.UnfaultedStepAnswers := by
  unfold Obligations.UnfaultedStepAnswers
  intro s hf
  have hturn {s0 : State} (hn : engineNext s s0) : ∃ t, step s = .next t := by
    obtain ⟨t, ht, -⟩ := engineStep_answers (engineNext_fault hn)
    exact ⟨t, (step_of_engineNext hn).trans ht⟩
  match hm : s.moves with
  | [] => exact hturn ⟨hf, .inl ⟨hm, rfl⟩⟩
  | .engine :: ms => exact hturn ⟨hf, .inr ⟨ms, hm, rfl⟩⟩
  | .host a :: ms => exact ⟨_, step_of_host hm hf⟩
  | .reset :: ms => exact ⟨_, step_of_reset hm⟩

/-- Settles O10: by the definition of the step. -/
theorem stepRunsHostAccess : Obligations.StepRunsHostAccess := by
  unfold Obligations.StepRunsHostAccess
  exact fun s a ms => step_of_host

/-- Settles O11: the end of the command clears `PENDING` unless the command recorded a host fault, and the only one a
command can record is `UNWRITTEN_READ`. -/
theorem engineTurnEndsCommand : Obligations.EngineTurnEndsCommand := by
  unfold Obligations.EngineTurnEndsCommand
  intro s s0 hn
  have hp : s0.pending = s.pending := by
    obtain ⟨-, ⟨-, rfl⟩ | ⟨ms, -, rfl⟩⟩ := hn <;> rfl
  rw [step_of_engineNext hn, ← hp]
  exact engineStep_answers (engineNext_fault hn)

/-- Settles O12: a host's or the engine's move looks at `FAULT` first, and a reset carries it over. -/
theorem hostFaultIsSticky : Obligations.HostFaultIsSticky := by
  unfold Obligations.HostFaultIsSticky
  intro s k hf
  refine ⟨step_of_fault hf, fun t ht => ?_⟩
  by_cases hm : ∃ ms, s.moves = .reset :: ms
  · obtain ⟨ms, hm⟩ := hm
    rw [step_of_reset hm] at ht
    cases ht
    exact hf
  · rw [step_of_fault hf fun ms h => hm ⟨ms, h⟩] at ht
    cases ht

/-- Settles O13: NOP is `finish(OK)` alone. -/
theorem nopOnlyClearsErr : Obligations.NopOnlyClearsErr := by
  unfold Obligations.NopOnlyClearsErr
  exact fun s => rfl

/-- Settles O51: a reset move takes effect with or without a pending command, and builds the state from R210's. -/
theorem resetMoveRestoresReset : Obligations.ResetMoveRestoresReset := by
  unfold Obligations.ResetMoveRestoresReset
  intro s ms hm
  rw [step_of_reset hm]
  rfl

end Sys2Proof.Proofs

/-! PROOFS. What instructions and host accesses leave unchanged (R47, the write matrix), and the codes they leave
(R181, R182, R189). -/

namespace Sys2Proof.Machine

/-! ### The fields each instruction leaves unchanged -/

section
variable {i : Instr} {s t : State} (h : Effect i s t)
include h

theorem Effect.cmd_eq : t.cmd = s.cmd := by
  cases h with
  | decodedUnknown => exact countUnknownDraw_cmd s
  | _ => rfl

theorem Effect.rxLen_eq : t.rxLen = s.rxLen := by
  cases h with
  | decodedUnknown => exact countUnknownDraw_rxLen s
  | _ => rfl

theorem Effect.moves_eq : t.moves = s.moves := by
  cases h with
  | decodedUnknown => exact countUnknownDraw_moves s
  | _ => rfl

theorem Effect.readData_eq : t.readData = s.readData := by
  cases h with
  | decodedUnknown => exact countUnknownDraw_readData s
  | _ => rfl

/-- `TX_LEN` is SERIALIZE's alone. -/
theorem Effect.txLen_eq (hser : i ≠ .serialize) : t.txLen = s.txLen := by
  cases h with
  | emitted | emittedShort => exact absurd rfl hser
  | decodedUnknown => exact countUnknownDraw_txLen s
  | _ => rfl

/-- `CKSUM_OK` is PARSE's and CHECKSUM's. -/
theorem Effect.cksumOk_eq (hparse : i ≠ .parse) (hck : i ≠ .checksum) : t.flags.cksumOk = s.flags.cksumOk := by
  cases h with
  | parsed => exact absurd rfl hparse
  | checked => exact absurd rfl hck
  | decodedUnknown =>
    have hflags := countUnknownDraw_flags s
    exact (congrArg Flags.cksumOk hflags :)
  | _ => rfl

/-- `CK_CALC` is written by the three commands that fold. -/
theorem Effect.ckCalc_eq (hparse : i ≠ .parse) (hser : i ≠ .serialize) (hck : i ≠ .checksum) :
    t.ckCalc = s.ckCalc := by
  cases h with
  | parsed => exact absurd rfl hparse
  | emitted | emittedShort => exact absurd rfl hser
  | checked => exact absurd rfl hck
  | decodedUnknown => exact countUnknownDraw_ckCalc s
  | _ => rfl

/-- The record, its flags and the draws are the status decoder's. -/
theorem Effect.record_eq (hdec : i ≠ .decode) (hloco : i ≠ .locoStatus) :
    t.status = s.status ∧ t.flags.sValid = s.flags.sValid ∧ t.flags.fnTrunc = s.flags.fnTrunc ∧ t.draws = s.draws := by
  cases h with
  | decodedKnown _ hi | decodedUnknown _ hi => exact (hi.elim hdec hloco).elim
  | _ => exact ⟨rfl, rfl, rfl, rfl⟩

/-- Only PARSE and the builders load the frame registers; SERIALIZE writes `F_LEN` alone. -/
theorem Effect.frame_eq (hparse : i ≠ .parse) (hoff : i ≠ .buildLogoff) (hin : i ≠ .buildLogin)
    (hall : i ≠ .buildSubAll) (hloco : ∀ hi lo, i ≠ .buildSubLoco hi lo) :
    t.frame = { s.frame with len := t.frame.len } ∧ (i ≠ .serialize → t.frame.len = s.frame.len) := by
  cases h with
  | parsed => exact absurd rfl hparse
  | emitted | emittedShort => exact ⟨rfl, fun hser => absurd rfl hser⟩
  | builtLogoff => exact absurd rfl hoff
  | builtLogin => exact absurd rfl hin
  | builtSubAll => exact absurd rfl hall
  | builtSubLoco hi lo => exact absurd rfl (hloco hi lo)
  | decodedUnknown =>
    simp
  | _ => exact ⟨rfl, fun _ => rfl⟩

/-- An instruction stores nothing, or one run of bytes inside `storesTo`: PARSE and the subscribe builders in `PAY`,
SERIALIZE in `TX` (R47). -/
theorem Effect.mem_cases :
    t.mem = s.mem ∨ ∃ o bs, t.mem = Memory.writeBytes s.mem o bs ∧ (∀ j, j < bs.length → storesTo i s (o + j)) ∧
      ((o = payBase ∧ bs.length ≤ max 3 s.params.payMax ∧
          (i = .parse ∨ i = .buildSubAll ∨ ∃ hi lo, i = .buildSubLoco hi lo)) ∨
        (o = txBase ∧ bs.length ≤ s.params.frameMax ∧ i = .serialize)) := by
  have hfm : s.params.frameMax = s.params.payMax + 6 := rfl
  cases h with
  | parsed _ d h5 hm hd =>
    have hl := parsedPayload_length hd
    exact .inr ⟨payBase, _, rfl, fun j hj => ⟨by omega, by omega⟩, .inl ⟨rfl, by omega, by simp⟩⟩
  | emitted _ p hk hx hp =>
    have hl := extended_length hp
    exact .inr ⟨txBase, _, rfl, fun j hj => ⟨by omega, by rw [if_pos hx]; omega⟩, .inr ⟨rfl, by omega, rfl⟩⟩
  | emittedShort _ hk hx =>
    have hl : (datagram [s.frame.hdr0, s.frame.hdr1]).length = 4 := rfl
    exact .inr ⟨txBase, _, rfl, fun j hj => ⟨by omega, by rw [hx, if_neg Bool.false_ne_true]; omega⟩,
      .inr ⟨rfl, by omega, rfl⟩⟩
  | builtSubAll | builtSubLoco =>
    exact .inr ⟨payBase, _, rfl, fun j (hj : j < 3) => ⟨by omega, by omega⟩, .inl ⟨rfl, Nat.le_max_left _ _, by simp⟩⟩
  | decodedUnknown => exact .inl (countUnknownDraw_mem s)
  | _ => exact .inl rfl

/-- Outside its stored bytes an instruction leaves memory as it was. -/
theorem Effect.read_mem_of_not_storesTo {x : Nat} (hx : ¬ storesTo i s x) :
    Memory.read t.mem x = Memory.read s.mem x := by
  obtain hm | ⟨o, bs, hm, hst, -⟩ := h.mem_cases
  · rw [hm]
  · rw [hm, Memory.read_writeBytes_outside]
    rintro ⟨hlo, hhi⟩
    have hx' := hst (x - o) (by omega)
    rw [Nat.add_sub_cancel' hlo] at hx'
    exact hx hx'

end

/-! ### The buffers each instruction leaves unchanged -/

section
variable {i : Instr} {s t : State} (h : Effect i s t) (hl : s.params.legal = true)
include h hl

/-- No instruction writes `RX`. -/
theorem Effect.read_rx {j : Nat} (hj : j < s.params.frameMax) :
    Memory.read t.mem (rxBase + j) = Memory.read s.mem (rxBase + j) := by
  obtain ⟨-, hp, -⟩ := Params.legal_iff.1 hl
  have hfm : s.params.frameMax = s.params.payMax + 6 := rfl
  obtain hm | ⟨o, bs, hm, -, ⟨rfl, -, -⟩ | ⟨rfl, -, -⟩⟩ := h.mem_cases
  · rw [hm]
  · rw [hm, Memory.read_writeBytes_outside]
    unfold rxBase payBase
    omega
  · rw [hm, Memory.read_writeBytes_outside]
    unfold rxBase txBase
    omega

/-- `TX` is SERIALIZE's alone. -/
theorem Effect.read_tx (hser : i ≠ .serialize) {j : Nat} (hj : j < s.params.frameMax) :
    Memory.read t.mem (txBase + j) = Memory.read s.mem (txBase + j) := by
  obtain ⟨-, hp, -⟩ := Params.legal_iff.1 hl
  have hfm : s.params.frameMax = s.params.payMax + 6 := rfl
  obtain hm | ⟨o, bs, hm, -, ⟨rfl, -, -⟩ | ⟨-, -, hi⟩⟩ := h.mem_cases
  · rw [hm]
  · rw [hm, Memory.read_writeBytes_outside]
    unfold payBase txBase
    omega
  · exact absurd hi hser

/-- `PAY` is PARSE's and the subscribe builders': SERIALIZE's datagram ends below it. -/
theorem Effect.read_pay (hparse : i ≠ .parse) (hall : i ≠ .buildSubAll) (hloco : ∀ hi lo, i ≠ .buildSubLoco hi lo)
    (j : Nat) : Memory.read t.mem (payBase + j) = Memory.read s.mem (payBase + j) := by
  obtain ⟨-, hp, -⟩ := Params.legal_iff.1 hl
  have hfm : s.params.frameMax = s.params.payMax + 6 := rfl
  obtain hm | ⟨o, bs, hm, -, ⟨-, -, hi | hi | ⟨hi, lo, hi'⟩⟩ | ⟨rfl, hlen, -⟩⟩ := h.mem_cases
  · rw [hm]
  · exact absurd hi hparse
  · exact absurd hi hall
  · exact absurd hi' (hloco hi lo)
  · rw [hm, Memory.read_writeBytes_outside]
    unfold payBase txBase
    omega

end

/-! ### What a host access leaves unchanged -/

/-- The registers only the engine writes (R47). -/
theorem AccessEffect.engine_fields {s t : State} (h : AccessEffect s t) :
    t.flags = s.flags ∧ t.txLen = s.txLen ∧ t.ckCalc = s.ckCalc ∧ t.status = s.status ∧ t.moves = s.moves := by
  cases h <;> exact ⟨rfl, rfl, rfl, rfl, rfl⟩

/-- No host access writes `TX` (R61): an aligned write that starts outside the region stays outside it. -/
theorem AccessEffect.read_tx {s t : State} (h : AccessEffect s t) (hl : s.params.legal = true) {j : Nat}
    (hj : j < s.params.frameMax) : Memory.read t.mem (txBase + j) = Memory.read s.mem (txBase + j) := by
  obtain ⟨-, hp, -⟩ := Params.legal_iff.1 hl
  have hfm : s.params.frameMax = s.params.payMax + 6 := rfl
  cases h with
  | buffer o bs hb hlen hm ht =>
    have ho : ¬ (txBase ≤ o ∧ o < payBase) := fun h => by simp [inTx_iff.2 h] at ht
    refine Memory.read_writeBytes_outside s.mem ?_
    unfold txBase payBase at *
    omega
  | _ => rfl

/-! ### Result codes -/

/-- The frame checks raise two codes (R23). -/
theorem frameError_code {s : State} {e : ErrCode} (h : frameError s = some e) :
    e = .frameTooLong ∨ e = .invalidFrame := by
  rcases frameError_cases s with ⟨h', -⟩ | ⟨h', -⟩ | ⟨h', -⟩ <;> rw [h'] at h <;> cases h
  · exact .inl rfl
  · exact .inr rfl

/-- The code a command leaves after the frame checks: theirs, or its body's. -/
theorem withValidFrame_code {s t : State} {body : State → Host.Outcome State Fault Refusal}
    (h : withValidFrame s body = .next t) :
    t.flags.err = .frameTooLong ∨ t.flags.err = .invalidFrame ∨ body s = .next t := by
  obtain ⟨-, h⟩ | ⟨e, he, rfl⟩ := withValidFrame_cases h
  · exact .inr (.inr h)
  · exact (frameError_code he).imp_right .inl

theorem ignoreFrame_code {s t : State} (h : withValidFrame s ignoreFrame = .next t) :
    t.flags.err = .frameTooLong ∨ t.flags.err = .invalidFrame ∨ t.flags.err = .unexpectedFrameType := by
  obtain h | h | h := withValidFrame_code h
  · exact .inl h
  · exact .inr (.inl h)
  · cases h; exact .inr (.inr rfl)

section
variable {s t : State} (hf : t.fault = none)
include hf

theorem hostFault_ne_next {k : HostFault} : hostFault k s ≠ .next t := by
  rintro ⟨⟩
  cases hf

theorem execParse_code (h : execParse s = .next t) :
    t.flags.err = .ok ∨ t.flags.err = .malformedFrame ∨ t.flags.err = .frameTooLong := by
  unfold execParse at h
  split at h
  · cases h; exact .inr (.inl rfl)
  · split at h
    · cases h; exact .inr (.inr rfl)
    · split at h
      · exact absurd h (hostFault_ne_next hf)
      · cases h; exact .inl rfl

theorem execSerialize_code (h : execSerialize s = .next t) :
    t.flags.err = .ok ∨ t.flags.err = .frameTooLong ∨ t.flags.err = .invalidFrame := by
  obtain h | h | h := withValidFrame_code h
  · exact .inr (.inl h)
  · exact .inr (.inr h)
  · split at h
    · split at h
      · exact absurd h (hostFault_ne_next hf)
      · cases h; exact .inl rfl
    · cases h; exact .inl rfl

theorem execChecksum_code (h : execChecksum s = .next t) :
    t.flags.err = .ok ∨ t.flags.err = .frameTooLong ∨ t.flags.err = .invalidFrame ∨ t.flags.err = .noChecksum := by
  obtain h | h | h := withValidFrame_code h
  · exact .inr (.inl h)
  · exact .inr (.inr (.inl h))
  · split at h
    · split at h
      · exact absurd h (hostFault_ne_next hf)
      · cases h; exact .inl rfl
    · cases h; exact .inr (.inr (.inr rfl))

theorem decodeStatus_code (h : decodeStatus s = .next t) :
    t.flags.err = .ok ∨ t.flags.err = .shortStatusPayload ∨ t.flags.err = .unknownSpeedStepMode := by
  unfold decodeStatus at h
  split at h
  · cases h; exact .inr (.inl rfl)
  · split at h
    · exact absurd h (hostFault_ne_next hf)
    · unfold decodeWrites at h
      dsimp only at h
      split at h
      · cases h; exact .inl rfl
      · cases h; exact .inr (.inr rfl)

end

end Sys2Proof.Machine

namespace Sys2Proof.Proofs

open Sys2Proof.Machine

/-- Settles O33: each column of the matrix is one of the fields an instruction leaves unchanged; an access writes none
of the engine's registers, and `TX` is refused to it. -/
theorem writeMatrixHolds : Obligations.WriteMatrixHolds := by
  unfold Obligations.WriteMatrixHolds
  refine ⟨fun i s t hl ht => ?_, fun a s hl => ?_⟩
  · have h := exec_effect ht
    refine ⟨h.cmd_eq, h.pending_eq, h.cksumOk_eq, fun hd hs => ?_, h.rxLen_eq, fun j => h.read_rx hl,
      fun hser => ⟨h.txLen_eq hser, fun j => h.read_tx hl hser⟩, fun hp hser h1 h2 h3 h4 => ?_,
      fun hp h1 h2 h3 h4 => ?_, fun hp h3 h4 j _ => h.read_pay hl hp h3 h4 j, h.ckCalc_eq, fun hd hs => ?_⟩
    · obtain ⟨-, hv, htr, -⟩ := h.record_eq hd hs
      exact ⟨hv, htr⟩
    · exact (h.frame_eq hp h1 h2 h3 h4).2 hser
    · rw [(h.frame_eq hp h1 h2 h3 h4).1]
      exact ⟨rfl, rfl, rfl, rfl, rfl, rfl, rfl⟩
    · exact (h.record_eq hd hs).1
  · have h := access_effect a s
    obtain ⟨hfl, htx, hck, hst, -⟩ := h.engine_fields
    exact ⟨hfl, htx, hck, hst, fun j => h.read_tx hl⟩

/-- Settles O34: the model's own fields and the parameters are touched by no instruction, and each stores one run of
bytes. -/
theorem instructionFrame : Obligations.InstructionFrame := by
  unfold Obligations.InstructionFrame
  intro i s t ht
  have h := exec_effect ht
  refine ⟨h.params_eq, h.moves_eq, h.readData_eq, fun hd hs => ?_, h.fault_eq, fun x => h.read_mem_of_not_storesTo⟩
  obtain ⟨-, -, -, hdraws⟩ := h.record_eq hd hs
  exact hdraws

/-- Settles O35: an effect that writes anything else ends with `OK` or `UNKNOWN_SPEED_STEP_MODE`; a host fault that was
there before is no change. -/
theorem errorsArePrecise : Obligations.ErrorsArePrecise := by
  unfold Obligations.ErrorsArePrecise
  intro i s t ht hok hunknown hf
  cases exec_effect ht with
  | code => rfl
  | unwritten =>
    show { s with fault := some .unwrittenRead } = s
    rw [show some HostFault.unwrittenRead = s.fault from hf]
  | decodedUnknown => exact absurd rfl hunknown
  | _ => exact absurd rfl hok

/-- Settles O36: constructor by constructor; the wire classes leave the codes of the part of DECODE they are. -/
theorem codesEachInstructionRaises : Obligations.CodesEachInstructionRaises := by
  unfold Obligations.CodesEachInstructionRaises
  intro i s t _ ht hf
  cases i with
  | nop | buildLogoff | buildLogin | buildSubAll | buildSubLoco => cases ht; rfl
  | parse => exact execParse_code hf ht
  | serialize => exact execSerialize_code hf ht
  | checksum => exact execChecksum_code hf ht
  | decode =>
    rw [exec_decode_eq] at ht
    obtain h | h | h := withValidFrame_code ht
    · exact .inr (.inl h)
    · exact .inr (.inr (.inl h))
    · split at h
      · have hcode := decodeStatus_code hf h
        tauto
      · cases h; simp
  | logoff | login | subscribeAll | subscribeOne => exact ignoreFrame_code ht
  | locoStatus =>
    obtain h | h | h := withValidFrame_code ht
    · exact .inr (.inl h)
    · exact .inr (.inr (.inl h))
    · have hcode := decodeStatus_code hf h
      tauto

end Sys2Proof.Proofs

/-! PROOFS. The status decoder: its errors (R146 to R148), the record (R151 to R157), the functions (R158 to R161), and
decoding twice (R162). -/

namespace Sys2Proof.Machine

/-! ### The branches of DECODE -/

/-- The statements' class LOCO_STATUS is R147's byte comparison. -/
theorem holdsStatusClass_iff {f : Frame} : holdsStatusClass f ↔ isStatusFrame f = true := by
  have byte (b c : Byte) : b.toNat = c.toNat ↔ b = c := BitVec.toNat_inj
  exact isStatusFrame_iff.trans
    (and_congr (byte _ 0x40#8).symm (and_congr (byte _ 0x00#8).symm (and_congr_right' (byte _ 0xEF#8).symm))) |>.symm

theorem exec_decode_of_frameError {s : State} {e : ErrCode} (h : frameError s = some e) :
    exec .decode s = .next (onlyErr s e) := by
  rw [exec_decode_eq]
  exact withValidFrame_of_error h

/-- DECODE, and the class LOCO_STATUS, run the status decoder on a frame whose payload fits (R146, R147). -/
theorem exec_of_decodesStatus {i : Instr} {s : State} (hd : decodesStatus i s)
    (hm : s.frame.plen.toNat ≤ s.params.payMax) : exec i s = decodeStatus s := by
  obtain ⟨rfl, hc⟩ | ⟨rfl, hx⟩ := hd
  · rw [exec_decode_eq, withValidFrame_of_valid hm (.inr hc.2.2.1), if_pos (holdsStatusClass_iff.1 hc)]
  · show execLocoStatus s = _
    rw [execLocoStatus, withValidFrame_of_valid hm (.inr hx)]

theorem decodeStatus_of_short {s : State} (h : s.frame.plen.toNat < 4) :
    decodeStatus s = .next (onlyErr s .shortStatusPayload) := by
  rw [decodeStatus, if_pos h]
  rfl

/-- A byte with no value among those DECODE reads (R46, R145). -/
theorem decodeStatus_of_unwritten {s : State} {j : Nat} (h4 : 4 ≤ s.frame.plen.toNat) (hj : j < decodeLength s)
    (hr : Memory.read s.mem (payBase + j) = none) : decodeStatus s = .next (s.setFault .unwrittenRead) := by
  have hnone : payloadBytes s (decodeLength s) = none := Memory.readBytes_eq_none.2 ⟨j, hj, hr⟩
  rw [decodeStatus, if_neg (by omega), hnone]
  rfl

/-- The payload bytes DECODE reads, when they hold values (R145). -/
theorem decodeStatus_of_holdsBytes {s : State} {p : Nat → Byte} (h4 : 4 ≤ s.frame.plen.toNat)
    (hp : holdsBytes s.mem payBase (decodeLength s) p) :
    decodeStatus s = decodeWrites ((List.range (decodeLength s)).map p) s := by
  have hr : payloadBytes s (decodeLength s) = some ((List.range (decodeLength s)).map p) := Memory.readBytes_of_read hp
  rw [decodeStatus, if_neg (by omega), hr]

theorem decodeWrites_of_known {p : List Byte} {s : State} {m : StepMode} {v : BitVec 7}
    (h : knownSpeed (selector p) (magnitude p) = some (m, v)) :
    decodeWrites p s = .next { s with
      status := statusRecord s.params p s.frame.plen.toNat m v
      flags := { err := .ok, cksumOk := s.flags.cksumOk, sValid := true,
                 fnTrunc := truncated s.params s.frame.plen.toNat } } := by
  rw [decodeWrites, h]
  rfl

theorem decodeWrites_of_unknown {p : List Byte} {s : State} (h : knownSpeed (selector p) (magnitude p) = none) :
    decodeWrites p s = .next { s with
      status := statusRecord s.params p s.frame.plen.toNat .unknown
        (unknownSpeed s.params.unknownModeSpeed s.draws)
      draws := (countUnknownDraw s).draws
      flags := { err := .unknownSpeedStepMode, cksumOk := s.flags.cksumOk, sValid := true,
                 fnTrunc := truncated s.params s.frame.plen.toNat } } := by
  rw [decodeWrites, h, countUnknownDraw_eq s]
  rfl

/-- In every mode the functions are those of the payload (R158). -/
theorem decodeWrites_functions (p : List Byte) (s : State) :
    ∃ t, decodeWrites p s = .next t ∧ t.status.fn = functionBits s.params p s.frame.plen.toNat ∧
      t.status.fnCnt = functionCount s.params s.frame.plen.toNat ∧
      t.flags.fnTrunc = truncated s.params s.frame.plen.toNat := by
  cases hv : knownSpeed (selector p) (magnitude p) with
  | some mv => exact ⟨_, decodeWrites_of_known hv, rfl, rfl, rfl⟩
  | none => exact ⟨_, decodeWrites_of_unknown hv, rfl, rfl, rfl⟩

/-! ### The record (R151 to R156) -/

theorem address_sourceLiteral_toNat (p0 p1 : Byte) : (address .sourceLiteral p0 p1).toNat = p1.toNat := by
  rw [address_sourceLiteral, BitVec.toNat_setWidth, Nat.mod_eq_of_lt (by omega)]

/-- A speed that fits the field, as an integer floored at 0 (R10, R155). -/
theorem speedField_toInt {x : Int} (h : x < 128) : ((speedField x).toNat : Int) = max 0 x := by
  rw [speedField_toNat h]
  omega

/-- The full-range speed of a magnitude (R155). -/
theorem speedField_magnitude (p : List Byte) :
    ((speedField (((magnitude p).toNat : Int) - 1)).toNat : Int) = max 0 (((byteAt p 3).toNat % 128 : Int) - 1) := by
  have hm := magnitude_toNat p
  rw [speedField_toInt (by omega), hm]
  rfl

/-- The 28-step speed of a magnitude (R155). -/
theorem speedField_magnitude_low (p : List Byte) :
    ((speedField (2 * (((magnitude p &&& 0x0F#7).toNat : Int) - 1))).toNat : Int) =
      max 0 (2 * (((byteAt p 3).toNat % 16 : Int) - 1)) := by
  have hm := magnitude_low_toNat p
  rw [speedField_toInt (by omega), hm]
  rfl

/-! ### The function bitmap (R158 to R161) -/

/-- `FN_EXT_MAX` is at most 1023, so that the last function index is below 8192 (R7). -/
theorem fnExtMax_le {p : Params} (hl : p.legal = true) : p.fnExtMax ≤ 1023 := by
  obtain ⟨-, -, hf⟩ := Params.legal_iff.1 hl
  exact hf.trans (Nat.min_le_right _ _)

/-- The count of functions a payload of at least 5 bytes gives (R158). -/
theorem functionCount_toNat {params : Params} (hl : params.legal = true) {k : Nat} (h5 : 5 ≤ k) :
    (functionCount params k).toNat = 5 + 8 * usedExtension params k := by
  have hf := fnExtMax_le hl
  have hu : usedExtension params k = min (k - 5) params.fnExtMax := rfl
  have he : extensionCount params k = usedExtension params k := rfl
  rw [functionCount, if_neg (by omega), BitVec.toNat_ofNat, he,
    Nat.mod_eq_of_lt (by omega)]

/-- The bitmap, bit by bit (R158 to R160), from the payload bytes DECODE reads. -/
theorem getLsbD_functionBits {params : Params} (hl : params.legal = true) {k : Nat} (h5 : 5 ≤ k) {p : List Byte}
    (hp : p.length = min k (5 + params.fnExtMax)) (n : Nat) :
    (functionBits params p k).getLsbD n = functionOf (byteAt p) (usedExtension params k) n := by
  have hf := fnExtMax_le hl
  have hu : usedExtension params k = min (k - 5) params.fnExtMax := rfl
  have hlen : (slice p 5 (5 + usedExtension params k)).length = usedExtension params k := by
    rw [slice, List.length_take, List.length_drop]
    omega
  have hget : ∀ j, j < usedExtension params k →
      (slice p 5 (5 + usedExtension params k)).getD j 0#8 = byteAt p (5 + j) := fun j hj => by
    simp [slice, byteAt, List.getD_eq_getElem?_getD, hj]
  rw [functionBits, if_neg (by omega), show extensionCount params k = usedExtension params k from rfl,
    getLsbD_writeExtension _ _ _ (by omega), hlen, getLsbD_writeLegacy, functionOf]
  by_cases h0 : n = 0
  · rw [if_neg (by omega), if_pos h0, if_pos h0]
  · by_cases hleg : n ≤ 4
    · rw [if_neg (by omega), if_neg h0, if_pos hleg, if_neg h0, if_pos hleg]
    · by_cases hext : n < 5 + 8 * usedExtension params k
      · rw [if_pos (by omega), if_neg h0, if_neg hleg, if_pos hext, Nat.sub_zero, hget _ (by omega)]
      · rw [if_neg (by omega), if_neg h0, if_neg hleg, if_neg h0, if_neg hleg, if_neg hext]

theorem functionOf_congr {p q : Nat → Byte} {e : Nat} (h : ∀ j, j < 5 + e → p j = q j) (n : Nat) :
    functionOf p e n = functionOf q e n := by
  unfold functionOf
  by_cases hext : 4 < n ∧ n < 5 + 8 * e
  · rw [h 4 (by omega), h (5 + (n - 5) / 8) (by omega)]
  · by_cases hleg : n ≤ 4
    · rw [h 4 (by omega), if_pos hleg, if_pos hleg]
    · have h0 : n ≠ 0 := by omega
      have hend : ¬ n < 5 + 8 * e := by omega
      rw [if_neg h0, if_neg h0, if_neg hleg, if_neg hend, if_neg hleg, if_neg hend]

/-- Past the count no function is set. -/
theorem functionOf_of_le {e n : Nat} (p : Nat → Byte) (h : 5 + 8 * e ≤ n) : functionOf p e n = false := by
  rw [functionOf, if_neg (by omega), if_neg (by omega), if_neg (by omega)]

theorem truncated_eq_true {params : Params} {k : Nat} (h5 : 5 ≤ k) :
    truncated params k = true ↔ params.fnExtMax < k - 5 := by
  simp [truncated, h5]

/-- The functions of a payload of fewer than 5 bytes: none (R158). -/
theorem functions_of_lt_five (params : Params) (p : List Byte) {k : Nat} (h : k < 5) :
    functionBits params p k = 0#8192 ∧ functionCount params k = 0#16 ∧ truncated params k = false := by
  refine ⟨if_pos h, if_pos h, ?_⟩
  rw [truncated, decide_eq_false (by omega), Bool.false_and]

/-! ### Decoding twice (R162) -/

/-- `f` answers the same state again, once it has answered it without a draw. -/
def AnswersAgain (f : State → Host.Outcome State Fault Refusal) (s : State) : Prop :=
  ∀ t, f s = .next t → t.draws = s.draws → f t = .next t

theorem raiseErr_answersAgain (e : ErrCode) (s : State) : AnswersAgain (raiseErr e) s := by
  rintro t ⟨⟩ -
  rfl

theorem hostFault_answersAgain (k : HostFault) (s : State) : AnswersAgain (hostFault k) s := by
  rintro t ⟨⟩ -
  rfl

/-- In Unknown mode no draw was taken only under `ZERO`, where the speed is fixed (R156). -/
theorem decodeWrites_answersAgain (p : List Byte) (s : State) : AnswersAgain (decodeWrites p) s := by
  intro t ht hdraws
  cases hv : knownSpeed (selector p) (magnitude p) with
  | some mv =>
    rw [decodeWrites_of_known hv] at ht ⊢
    cases ht
    rfl
  | none =>
    rw [decodeWrites_of_unknown hv] at ht ⊢
    cases ht
    have hcount : (countUnknownDraw s).draws = s.draws := hdraws
    have hzero : s.params.unknownModeSpeed = .zero := by
      rw [countUnknownDraw_draws] at hcount
      cases hu : s.params.unknownModeSpeed with
      | zero => rfl
      | draw => rw [hu, if_pos rfl] at hcount; omega
    rw [countUnknownDraw_draws]
    simp [hzero, countUnknownDraw_draws, unknownSpeed]

/-- DECODE writes nothing it reads. -/
theorem Effect.decode_reads {s t : State} (h : Effect .decode s t) :
    t.frame = s.frame ∧ t.mem = s.mem ∧ t.params = s.params := by
  cases h with
  | decodedUnknown => exact ⟨countUnknownDraw_frame s, countUnknownDraw_mem s, countUnknownDraw_params s⟩
  | _ => exact ⟨rfl, rfl, rfl⟩

theorem exec_decode_answersAgain (s : State) : AnswersAgain (exec .decode) s := by
  intro t ht hdraws
  obtain ⟨hframe, hmem, hparams⟩ := (exec_effect ht).decode_reads
  have hcheck : frameError t = frameError s := by rw [frameError, frameError, hframe, hparams]
  have hread : payloadBytes t (decodeLength t) = payloadBytes s (decodeLength s) := by
    rw [payloadBytes, payloadBytes, decodeLength, decodeLength, hframe, hparams, hmem]
  rw [exec_decode_eq] at ht ⊢
  unfold withValidFrame at ht ⊢
  rw [hcheck]
  cases he : frameError s with
  | some e => rw [he] at ht; exact raiseErr_answersAgain e s t ht hdraws
  | none =>
    rw [he] at ht
    dsimp only at ht ⊢
    rw [hframe]
    cases hf : isStatusFrame s.frame with
    | false => rw [hf] at ht; exact raiseErr_answersAgain .unexpectedFrameType s t ht hdraws
    | true =>
      rw [hf, if_pos rfl] at ht
      rw [if_pos rfl]
      unfold decodeStatus at ht ⊢
      rw [hframe, hread]
      by_cases h4 : s.frame.plen.toNat < 4
      · rw [if_pos h4] at ht ⊢
        exact raiseErr_answersAgain .shortStatusPayload s t ht hdraws
      · rw [if_neg h4] at ht ⊢
        cases hp : payloadBytes s (decodeLength s) with
        | none => rw [hp] at ht; exact hostFault_answersAgain .unwrittenRead s t ht hdraws
        | some p => rw [hp] at ht; exact decodeWrites_answersAgain p s t ht hdraws

end Sys2Proof.Machine

namespace Sys2Proof.Proofs

open Sys2Proof.Machine

/-- Settles O27: the frame checks, then the class, then the payload's length. -/
theorem decodeErrorsInOrder : Obligations.DecodeErrorsInOrder := by
  unfold Obligations.DecodeErrorsInOrder
  intro s
  refine ⟨fun h => ?_, fun hk h0 hx => ?_, fun hv hc => ?_, fun hv hc h4 => ?_⟩
  · exact exec_decode_of_frameError (frameError_of_payMax_lt h)
  · exact exec_decode_of_frameError (frameError_of_no_xh hk h0 hx)
  · exact exec_decode_of_not_statusFrame hv (by rwa [holdsStatusClass_iff, Bool.not_eq_true] at hc)
  · rw [exec_of_decodesStatus (.inl ⟨rfl, hc⟩) hv.1, decodeStatus_of_short h4]

/-- Settles O28: every class's row makes the frame checks first; four of them then ignore the frame, and LOCO_STATUS
looks at the payload's length. -/
theorem wireClassCodes : Obligations.WireClassCodes := by
  unfold Obligations.WireClassCodes
  intro i s
  have hchecks (hi : i.isCommand = false) : ∃ body, exec i s = withValidFrame s body := by
    cases i with
    | logoff | login | subscribeAll | subscribeOne | locoStatus => exact ⟨_, rfl⟩
    | _ => cases hi
  refine ⟨fun hi => ?_, fun hi hv => ?_, fun hi hv h4 => ?_⟩
  · obtain ⟨body, hbody⟩ := hchecks hi
    rw [hbody]
    exact ⟨fun h => withValidFrame_of_error (frameError_of_payMax_lt h),
      fun hk h0 hx => withValidFrame_of_error (frameError_of_no_xh hk h0 hx)⟩
  · rw [exec_of_ignoredClass hi, withValidFrame_of_valid hv.1 hv.2]
    rfl
  · subst hi
    show execLocoStatus s = _
    rw [execLocoStatus, withValidFrame_of_valid hv.1 hv.2, decodeStatus_of_short h4]

/-- Settles O29: the selector is 1, 2 or 4 and gives its mode's speed, or it is one of the other five values. -/
theorem decodeWritesRecord : Obligations.DecodeWritesRecord := by
  unfold Obligations.DecodeWritesRecord
  intro i s p hd hl h4 hm hp
  rw [exec_of_decodesStatus hd hm, decodeStatus_of_holdsBytes h4 hp]
  have hlen : 4 ≤ decodeLength s := by unfold decodeLength; omega
  have hb : ∀ {j}, j < 4 → byteAt ((List.range (decodeLength s)).map p) j = p j := fun hj =>
    byteAt_range p (by omega)
  generalize (List.range (decodeLength s)).map p = d at hb ⊢
  have hmasked (h : s.params.addressFormula = .maskedShift) :
      (address s.params.addressFormula (byteAt d 0) (byteAt d 1)).toNat = (p 0).toNat % 64 * 256 + (p 1).toNat := by
    rw [h, address_maskedShift_toNat, hb (by omega), hb (by omega)]
  have hliteral (h : s.params.addressFormula = .sourceLiteral) :
      (address s.params.addressFormula (byteAt d 0) (byteAt d 1)).toNat = (p 1).toNat := by
    rw [h, address_sourceLiteral_toNat, hb (by omega)]
  have hsel : (selector d).toNat = (p 2).toNat % 8 := by rw [selector_toNat, hb (by omega)]
  have hdir : directionOf ((byteAt d 3).getLsbD 7) = if 128 ≤ (p 3).toNat then .forward else .backward := by
    rw [directionOf_bit7, hb (by omega)]
  have hfull := speedField_magnitude d
  have hlow := speedField_magnitude_low d
  rw [hb (by omega)] at hfull hlow
  obtain ⟨h, hv⟩ | ⟨h, hv⟩ | ⟨h, hv⟩ | ⟨n1, n2, n4, hv⟩ := knownSpeed_cases (selector d) (magnitude d)
  · have h8 : (p 2).toNat % 8 = 1 := by rw [← hsel, h]; rfl
    exact ⟨_, _, s.draws, _, decodeWrites_of_known hv, hmasked, hliteral, hsel, hdir, fun _ => ⟨rfl, hfull, rfl, rfl⟩,
      fun _ => by omega, fun _ => by omega, fun _ => by omega⟩
  · have h8 : (p 2).toNat % 8 = 2 := by rw [← hsel, h]; rfl
    exact ⟨_, _, s.draws, _, decodeWrites_of_known hv, hmasked, hliteral, hsel, hdir, fun _ => by omega,
      fun _ => ⟨rfl, hlow, rfl, rfl⟩, fun _ => by omega, fun _ => by omega⟩
  · have h8 : (p 2).toNat % 8 = 4 := by rw [← hsel, h]; rfl
    exact ⟨_, _, s.draws, _, decodeWrites_of_known hv, hmasked, hliteral, hsel, hdir, fun _ => by omega,
      fun _ => by omega, fun _ => ⟨rfl, hfull, rfl, rfl⟩, fun _ => by omega⟩
  · have hne {c : BitVec 3} (h : selector d ≠ c) : (p 2).toNat % 8 ≠ c.toNat := fun hc =>
      h (BitVec.eq_of_toNat_eq (hsel.trans hc))
    refine ⟨_, _, _, _, decodeWrites_of_unknown hv, hmasked, hliteral, hsel, hdir, fun h => (hne n1 h).elim,
      fun h => (hne n2 h).elim, fun h => (hne n4 h).elim, fun _ => ⟨rfl, rfl, fun hu => ⟨?_, ?_⟩, fun hu => ⟨?_, ?_⟩⟩⟩
    · rw [hu]; rfl
    · rw [countUnknownDraw_draws, hu]; rfl
    · rw [hu]; rfl
    · rw [countUnknownDraw_draws, hu]; rfl

/-- Settles O30: below 5 payload bytes there are no functions; else the legacy byte gives the first five and each
extension byte read eight more. -/
theorem decodeWritesFunctions : Obligations.DecodeWritesFunctions := by
  unfold Obligations.DecodeWritesFunctions
  intro i s p hd hl h4 hm hp
  have hlen : decodeLength s = min s.frame.plen.toNat (5 + s.params.fnExtMax) := rfl
  rw [exec_of_decodesStatus hd hm, decodeStatus_of_holdsBytes h4 hp]
  obtain ⟨t, ht, hfn, hcnt, htr⟩ := decodeWrites_functions ((List.range (decodeLength s)).map p) s
  refine ⟨t, ht, fun h => ?_, fun h5 => ⟨fun n => ?_, ?_, ?_⟩⟩
  · rw [hfn, hcnt, htr]
    exact functions_of_lt_five s.params _ h
  · have hu : usedExtension s.params s.frame.plen.toNat = min (s.frame.plen.toNat - 5) s.params.fnExtMax := rfl
    rw [hfn, getLsbD_functionBits hl h5 (by simp [hlen])]
    exact functionOf_congr (fun j hj => byteAt_range p (by omega)) n
  · rw [hcnt, functionCount_toNat hl h5]
  · rw [htr, truncated_eq_true h5]

/-- Settles O32: DECODE answers from what it reads, and it writes none of that but the number of draws. -/
theorem decodeIsIdempotent : Obligations.DecodeIsIdempotent := by
  unfold Obligations.DecodeIsIdempotent
  exact exec_decode_answersAgain

end Sys2Proof.Proofs

/-! PROOFS. The invariants of every step: the buffers (R46, R63), the command (R44), the record (R32, R40, R43, R155,
R213) and the transmit buffer (R29, R111); and that reset establishes them. -/

namespace Sys2Proof.Machine

/-! ### The buffers -/

/-- A run of writes at mapped offsets keeps the buffers canonical and mapped. -/
theorem State.memInv_of_run {s t : State} {o : Nat} {bs : List Byte} (h : s.memInv) (hp : t.params = s.params)
    (hm : t.mem = Memory.writeBytes s.mem o bs)
    (hb : ∀ j, j < bs.length → bufferMapped s.params (o + j) = true) : t.memInv := by
  obtain ⟨hwf, hmap⟩ := h
  refine ⟨by rw [hm]; exact Memory.wf_writeBytes o bs hwf, fun x v hx => ?_⟩
  rw [hm] at hx
  rw [hp]
  by_cases hin : o ≤ x ∧ x < o + bs.length
  · have hj := hb (x - o) (by omega)
    rwa [Nat.add_sub_cancel' hin.1] at hj
  · rw [Memory.read_writeBytes_outside _ hin] at hx
    exact hmap x v hx

theorem State.memInv_of_mem_eq {s t : State} (h : s.memInv) (hp : t.params = s.params) (hm : t.mem = s.mem) :
    t.memInv :=
  State.memInv_of_run (o := 0) (bs := []) h hp hm fun _ hj => (Nat.not_lt_zero _ hj).elim

theorem State.memInv_resetBlock (s : State) : s.resetBlock.memInv :=
  ⟨rfl, fun _ _ h => by cases h⟩

theorem AccessEffect.keeps_memInv {s t : State} (h : AccessEffect s t) (hi : s.memInv) : t.memInv := by
  cases h with
  | buffer o bs hb hlen hm ht => exact State.memInv_of_run hi rfl rfl hm
  | _ => exact State.memInv_of_mem_eq hi rfl rfl

/-- Under legal parameters every instruction's stored bytes are mapped: the subscribes' three payload bytes fit in
`PAY`. -/
theorem Effect.keeps_memInv {i : Instr} {s t : State} (h : Effect i s t) (hl : s.params.legal = true)
    (hi : s.memInv) : t.memInv := by
  obtain ⟨h4, -, -⟩ := Params.legal_iff.1 hl
  obtain hm | ⟨o, bs, hm, -, ⟨rfl, hlen, -⟩ | ⟨rfl, hlen, -⟩⟩ := h.mem_cases
  · exact State.memInv_of_mem_eq hi h.params_eq hm
  · exact State.memInv_of_run hi h.params_eq hm fun j hj => bufferMapped_of_mem_pay (by omega)
  · exact State.memInv_of_run hi h.params_eq hm fun j hj => bufferMapped_of_mem_tx (by omega) (by omega)

/-! ### The command -/

theorem State.commandInv_resetBlock (s : State) : s.resetBlock.commandInv :=
  fun _ h => by cases h

theorem AccessEffect.keeps_commandInv {s t : State} (h : AccessEffect s t) (hi : s.commandInv) : t.commandInv := by
  cases h with
  | command w hb => exact fun _ hw => Option.some.inj hw
  | _ => exact hi

theorem Effect.keeps_commandInv {i : Instr} {s t : State} (h : Effect i s t) (hi : s.commandInv) : t.commandInv := by
  intro w hw
  rw [h.pending_eq] at hw
  rw [h.cmd_eq]
  exact hi w hw

/-! ### The record -/

/-- What the status decoder can write as mode and speed (R155, R156). -/
def DecodedSpeed (params : Params) (n : Nat) (p : List Byte) (m : StepMode) (v : BitVec 7) : Prop :=
  knownSpeed (selector p) (magnitude p) = some (m, v) ∨
    (knownSpeed (selector p) (magnitude p) = none ∧ m = .unknown ∧ v = unknownSpeed params.unknownModeSpeed n)

/-- An instruction leaves the record and its flags as they were, or writes a whole record of the payload read. -/
theorem Effect.record_cases {i : Instr} {s t : State} (h : Effect i s t) :
    (t.status = s.status ∧ t.flags.sValid = s.flags.sValid ∧ t.flags.fnTrunc = s.flags.fnTrunc) ∨
    (t.flags.sValid = true ∧ ∃ p m v, payloadBytes s (decodeLength s) = some p ∧
      t.status = statusRecord s.params p s.frame.plen.toNat m v ∧ DecodedSpeed s.params s.draws p m v) := by
  cases h with
  | decodedKnown _ hi _ p m v h4 hk hp hv => exact .inr ⟨rfl, p, m, v, hp, rfl, .inl hv⟩
  | decodedUnknown _ hi _ p h4 hk hp hv => exact .inr ⟨rfl, p, _, _, hp, rfl, .inr ⟨hv, rfl, rfl⟩⟩
  | _ => exact .inl ⟨rfl, rfl, rfl⟩

/-- The packaging of an invariant of the record and the parameters: it is enough that a reset keeps it, and that the
status decoder's records have it. -/
theorem step_keeps_record {Inv : State → Prop} (hreset : ∀ u, Inv u → Inv u.resetBlock)
    (hcongr : ∀ u v, Inv u → v.params = u.params → v.status = u.status → Inv v)
    (hdecode : ∀ u v p m w, Inv u → v.params = u.params → payloadBytes u (decodeLength u) = some p →
      DecodedSpeed u.params u.draws p m w → v.status = statusRecord u.params p u.frame.plen.toNat m w → Inv v)
    {s t : State} (hi : Inv s) (h : step s = .next t) : Inv t := by
  refine step_keeps hreset (fun u _ hu => hcongr u _ hu rfl rfl) (fun u hu => hcongr u _ hu rfl rfl)
    (fun u v hu he => ?_) (fun i u v hu he => ?_) hi h
  · obtain ⟨-, -, -, hst, -⟩ := he.engine_fields
    exact hcongr u v hu he.params_eq hst
  · obtain ⟨hst, -, -⟩ | ⟨-, p, m, w, hp, hst, hv⟩ := he.record_cases
    · exact hcongr u v hu he.params_eq hst
    · exact hdecode u v p m w hu he.params_eq hp hv hst

/-- R40, R155, R156: the mode is the selector's, and the speed is in its mode's range. -/
theorem DecodedSpeed.range {params : Params} {n : Nat} {p : List Byte} {m : StepMode} {v : BitVec 7}
    (h : DecodedSpeed params n p m v) :
    m = modeOfSelector (selector p) ∧ (m ≠ .unknown → v.toNat ≤ 126) ∧
      (m = .twentyEightStep → v.toNat % 2 = 0 ∧ v.toNat ≤ 28) ∧
      (m = .unknown → params.unknownModeSpeed = .zero → v = 0#7) := by
  have hfull := speedField_magnitude p
  have hlow := speedField_magnitude_low p
  obtain ⟨hs, hk⟩ | ⟨hs, hk⟩ | ⟨hs, hk⟩ | ⟨h1, h2, h4, hk⟩ := knownSpeed_cases (selector p) (magnitude p) <;>
    obtain hv | ⟨hv, hm, hw⟩ := h <;> rw [hk] at hv <;> cases hv
  · exact ⟨by rw [hs]; rfl, fun _ => by omega, nofun, nofun⟩
  · exact ⟨by rw [hs]; rfl, fun _ => by omega, fun _ => by omega, nofun⟩
  · exact ⟨by rw [hs]; rfl, fun _ => by omega, nofun, nofun⟩
  · subst hm
    refine ⟨by rw [modeOfSelector, if_neg h1, if_neg h2, if_neg h4], fun h => (h rfl).elim, nofun, fun _ hz => ?_⟩
    rw [hw, hz]
    rfl

/-- R32, R43: the functions of a payload end at their count, which is 0 or `5 + 8e`. -/
theorem functions_end {params : Params} (hl : params.legal = true) (k : Nat) {p : List Byte}
    (hp : p.length = min k (5 + params.fnExtMax)) :
    (∀ n, (functionCount params k).toNat ≤ n → (functionBits params p k).getLsbD n = false) ∧
      (functionCount params k = 0#16 ∨ ∃ e, e ≤ params.fnExtMax ∧ (functionCount params k).toNat = 5 + 8 * e) := by
  by_cases h5 : k < 5
  · obtain ⟨hfn, hcnt, -⟩ := functions_of_lt_five params p h5
    rw [hfn, hcnt]
    exact ⟨fun n _ => BitVec.getLsbD_zero, .inl rfl⟩
  · have hcnt := functionCount_toNat hl (k := k) (by omega)
    rw [hcnt]
    refine ⟨fun n hn => ?_, .inr ⟨_, Nat.min_le_right _ _, rfl⟩⟩
    rw [getLsbD_functionBits hl (by omega) hp, functionOf_of_le _ hn]

theorem State.fnInv_resetBlock (s : State) : s.resetBlock.fnPrefixInv ∧ s.resetBlock.fnCountInv :=
  ⟨fun _ _ => BitVec.getLsbD_zero, .inl rfl⟩

theorem State.speedInv_resetBlock (s : State) : s.resetBlock.modeInv ∧ s.resetBlock.speedInv :=
  ⟨rfl, fun h => (h rfl).elim, nofun, fun _ _ => rfl⟩

theorem Effect.keeps_noRecordInv {i : Instr} {s t : State} (h : Effect i s t) (hi : s.noRecordInv) : t.noRecordInv := by
  intro hv
  obtain ⟨hst, hsv, htr⟩ | ⟨hsv, -⟩ := h.record_cases
  · rw [hst, htr]
    exact hi (hsv ▸ hv)
  · rw [hsv] at hv
    cases hv

/-! ### The transmit buffer -/

/-- The invariant looks at the parameters, `TX_LEN` and the bytes of `TX` alone. -/
theorem State.txInv_congr {s t : State} (h : s.txInv) (hp : t.params = s.params) (hlen : t.txLen = s.txLen)
    (hm : ∀ j, j < s.params.frameMax → Memory.read t.mem (txBase + j) = Memory.read s.mem (txBase + j)) : t.txInv := by
  have hfm : s.params.frameMax = s.params.payMax + 6 := rfl
  have h0 : Memory.read t.mem txBase = Memory.read s.mem txBase := hm 0 (by omega)
  obtain ⟨hmax, hbytes⟩ := h
  unfold State.txInv
  rw [hp, hlen, h0, hm 1 (by omega)]
  refine ⟨hmax, hbytes.imp_right fun ⟨h4, hsome, hfield⟩ => ⟨h4, fun i hi => ?_, hfield⟩⟩
  rw [hm i (by omega)]
  exact hsome i hi

/-- SERIALIZE's writes leave a whole datagram with its own length field (R111). -/
theorem State.txInv_emit {s : State} {body : List Byte} (hl : s.params.legal = true) (h2 : 2 ≤ body.length)
    (hb : 2 + body.length ≤ s.params.frameMax) : (emit body s).txInv := by
  obtain ⟨-, hmax, -⟩ := Params.legal_iff.1 hl
  have hfm : s.params.frameMax = s.params.payMax + 6 := rfl
  have hlen : (BitVec.ofNat 16 (2 + body.length)).toNat = 2 + body.length := by rw [BitVec.toNat_ofNat]; omega
  have hread : ∀ i, i < 2 + body.length →
      Memory.read (emit body s).mem (txBase + i) = (datagram body)[i]? := fun i hi => by
    have hd : (datagram body).length = 2 + body.length := by rw [datagram, List.length_cons, List.length_cons]; omega
    show Memory.read (Memory.writeBytes s.mem txBase (datagram body)) (txBase + i) = _
    rw [Memory.read_writeBytes, if_pos (by omega), Nat.add_sub_cancel_left]
  unfold State.txInv
  rw [show (emit body s).txLen = BitVec.ofNat 16 (2 + body.length) from rfl, hlen]
  refine ⟨hb, .inr ⟨by omega, fun i hi => ?_, _, _, hread 0 (by omega), hread 1 (by omega), le16_bytes _⟩⟩
  have hd : i < (datagram body).length := by rw [datagram, List.length_cons, List.length_cons]; omega
  rw [hread i hi, List.getElem?_eq_getElem hd]
  rfl

theorem State.txInv_resetBlock (s : State) : s.resetBlock.txInv :=
  ⟨Nat.zero_le _, .inl rfl⟩

theorem AccessEffect.txLen_eq {s t : State} (h : AccessEffect s t) : t.txLen = s.txLen := by
  obtain ⟨-, htx, -⟩ := h.engine_fields
  exact htx

theorem Effect.keeps_txInv {i : Instr} {s t : State} (h : Effect i s t) (hl : s.params.legal = true) (hi : s.txInv) :
    t.txInv := by
  by_cases hser : i = .serialize
  · subst hser
    have hfm : s.params.frameMax = s.params.payMax + 6 := rfl
    cases h with
    | emitted _ p hk hx hp =>
      have hlen := extended_length hp
      rw [datagram, List.length_cons, List.length_cons] at hlen
      exact State.txInv_emit (s := s.setCkCalc (fold s.frame.xh p)) hl (by omega)
        (show 2 + (extendedBody s.frame p).length ≤ s.params.frameMax by omega)
    | emittedShort =>
      exact State.txInv_emit (s := s) hl (Nat.le_refl 2) (show 4 ≤ s.params.frameMax by omega)
    | code | unwritten => exact hi
    | decodedKnown _ hi' | decodedUnknown _ hi' => rcases hi' with hi' | hi' <;> cases hi'
  · exact State.txInv_congr hi h.params_eq (h.txLen_eq hser) fun j => h.read_tx hl hser

end Sys2Proof.Machine

namespace Sys2Proof.Proofs

open Sys2Proof.Machine

/-- Settles O53: the only stores are runs of bytes inside mapped regions, and each keeps the list sorted. -/
theorem stepKeepsMemory : Obligations.StepKeepsMemory := by
  unfold Obligations.StepKeepsMemory
  intro s t hl hi h
  exact (step_keeps (Inv := fun u => u.params.legal = true ∧ u.memInv)
    (hreset := fun u ⟨hul, _⟩ => ⟨hul, u.memInv_resetBlock⟩)
    (hmoves := fun _ _ hu => hu) (hclear := fun _ hu => hu)
    (haccess := fun u v ⟨hul, hu⟩ he => ⟨he.params_eq ▸ hul, he.keeps_memInv hu⟩)
    (hexec := fun i u v ⟨hul, hu⟩ he => ⟨he.params_eq ▸ hul, he.keeps_memInv hul hu⟩) ⟨hl, hi⟩ h).2

/-- Settles O54: a `CMD` write sets both, no instruction touches either, and the rest only clears `PENDING`. -/
theorem stepKeepsCommand : Obligations.StepKeepsCommand := by
  unfold Obligations.StepKeepsCommand
  intro s t hi h
  exact step_keeps (Inv := State.commandInv)
    (hreset := fun u _ => u.commandInv_resetBlock)
    (hmoves := fun _ _ hu => hu) (hclear := fun _ _ _ hw => by cases hw)
    (haccess := fun _ _ hu he => he.keeps_commandInv hu) (hexec := fun _ _ _ hu he => he.keeps_commandInv hu) hi h

/-- Settles O55: a record is written whole, its bitmap from a cleared one by as many bytes as its count counts. -/
theorem stepKeepsFunctionPrefix : Obligations.StepKeepsFunctionPrefix := by
  unfold Obligations.StepKeepsFunctionPrefix
  intro s t hl hpre hcnt h
  refine (step_keeps_record (Inv := fun u => u.params.legal = true ∧ u.fnPrefixInv ∧ u.fnCountInv)
    (fun u hu => ⟨hu.1, u.fnInv_resetBlock⟩) (fun u v hu hp hst => ?_) (fun u v p m w ⟨hul, _⟩ hp hpay hv hst => ?_)
    ⟨hl, hpre, hcnt⟩ h).2
  · unfold State.fnPrefixInv State.fnCountInv at *
    rwa [hp, hst]
  · unfold State.fnPrefixInv State.fnCountInv
    rw [hp, hst]
    obtain ⟨hlen, -⟩ := Memory.readBytes_eq_some.1 hpay
    exact ⟨hul, functions_end hul _ hlen⟩

/-- Settles O56: a record's mode and speed are those `speed_decode` gives its selector, or Unknown's. -/
theorem stepKeepsModeAndSpeed : Obligations.StepKeepsModeAndSpeed := by
  unfold Obligations.StepKeepsModeAndSpeed
  intro s t hmode hspeed h
  refine step_keeps_record (Inv := fun u => u.modeInv ∧ u.speedInv)
    (fun u _ => u.speedInv_resetBlock) (fun u v hu hp hst => ?_) (fun u v p m w _ hp hpay hv hst => ?_)
    ⟨hmode, hspeed⟩ h
  · unfold State.modeInv State.speedInv at *
    rwa [hp, hst]
  · unfold State.modeInv State.speedInv
    rw [hp, hst]
    exact hv.range

/-- Settles O57: `S_VALID` is set with the record and cleared with it. -/
theorem stepKeepsNoRecord : Obligations.StepKeepsNoRecord := by
  unfold Obligations.StepKeepsNoRecord
  intro s t hi h
  refine step_keeps (Inv := State.noRecordInv) (hreset := fun _ _ _ => ⟨rfl, rfl⟩)
    (hmoves := fun _ _ hu => hu) (hclear := fun _ hu => hu) (haccess := fun u v hu he => ?_)
    (hexec := fun _ _ _ hu he => he.keeps_noRecordInv hu) hi h
  obtain ⟨hfl, -, -, hst, -⟩ := he.engine_fields
  unfold State.noRecordInv
  rw [hfl, hst]
  exact hu

/-- Settles O58: SERIALIZE alone writes `TX` and `TX_LEN`, and always a whole datagram. -/
theorem stepKeepsTransmitBuffer : Obligations.StepKeepsTransmitBuffer := by
  unfold Obligations.StepKeepsTransmitBuffer
  intro s t hl hi h
  exact (step_keeps (Inv := fun u => u.params.legal = true ∧ u.txInv)
    (hreset := fun u ⟨hul, _⟩ => ⟨hul, u.txInv_resetBlock⟩)
    (hmoves := fun _ _ hu => hu) (hclear := fun _ hu => hu)
    (haccess := fun u v ⟨hul, hu⟩ he =>
      ⟨he.params_eq ▸ hul, State.txInv_congr hu he.params_eq he.txLen_eq fun j => he.read_tx hul⟩)
    (hexec := fun i u v ⟨hul, hu⟩ he => ⟨he.params_eq ▸ hul, he.keeps_txInv hul hu⟩) ⟨hl, hi⟩ h).2

/-- Settles O59: with no record, no command, no buffer byte and `TX_LEN` = 0 each invariant holds at once. -/
theorem invariantsHoldAtReset : Obligations.InvariantsHoldAtReset := by
  unfold Obligations.InvariantsHoldAtReset
  obtain ⟨hpre, hcnt⟩ := State.reset.fnInv_resetBlock
  obtain ⟨hmode, hspeed⟩ := State.reset.speedInv_resetBlock
  exact ⟨rfl, State.reset.memInv_resetBlock, State.reset.commandInv_resetBlock, hpre, hcnt, hmode, hspeed,
    fun _ => ⟨rfl, rfl⟩, State.reset.txInv_resetBlock, rfl, rfl, rfl⟩

end Sys2Proof.Proofs

/-! PROOFS. PARSE of a held datagram (R103), the commands' reads of bytes with no value (R46), and the frame builders
(R130 to R139). -/

namespace Sys2Proof.Machine

/-! ### Bytes with no value (R46) -/

theorem exec_parse_of_unwritten {s : State} {j : Nat} (h5 : 5 ≤ s.rxLen.toNat)
    (hm : s.rxLen.toNat ≤ s.params.frameMax) (hj : j < s.rxLen.toNat) (hr : Memory.read s.mem (rxBase + j) = none) :
    exec .parse s = .next (s.setFault .unwrittenRead) := by
  have hnone : rxDatagram s = none := Memory.readBytes_eq_none.2 ⟨j, hj, hr⟩
  show execParse s = _
  rw [execParse, if_neg (by omega), if_neg (by omega), hnone]
  rfl

theorem exec_serialize_of_unwritten {s : State} (hm : s.frame.plen.toNat ≤ s.params.payMax)
    (hx : s.frame.xhValid = true) (hp : payload s = none) : exec .serialize s = .next (s.setFault .unwrittenRead) := by
  show execSerialize s = _
  rw [execSerialize, withValidFrame_of_valid hm (.inr hx), if_pos hx, hp]
  rfl

theorem exec_checksum_of_unwritten {s : State} (hm : s.frame.plen.toNat ≤ s.params.payMax)
    (hx : s.frame.xhValid = true) (hp : payload s = none) : exec .checksum s = .next (s.setFault .unwrittenRead) := by
  show execChecksum s = _
  rw [execChecksum, withValidFrame_of_valid hm (.inr hx), if_pos hx, hp]
  rfl

/-! ### The builders -/

/-- A builder of a frame with a three-byte payload stores it at `PAY` and loads the frame (R130, R131). -/
theorem build_three (h0 h1 xh b0 b1 b2 : Byte) (s : State) :
    ∃ m, storedBytes s.mem m payBase 3 (fun i => if i = 0 then b0 else if i = 1 then b1 else b2) ∧
      build h0 h1 (some xh) [b0, b1, b2] s = .next { s with
        mem := m
        frame := { len := 9#16, hdr0 := h0, hdr1 := h1, xh := xh, xhValid := true, plen := 3#16,
                   ck := 0#8, ckValid := false }
        flags := { s.flags with err := .ok } } := by
  refine ⟨_, storedBytes_writeBytes s.mem payBase (bs := [b0, b1, b2]) fun i (hi : i < 3) => ?_, rfl⟩
  interval_cases i <;> rfl

/-- The class of the frame registers after a builder is that of the frame it loads. -/
theorem frameClass_of_build {h0 h1 : Byte} {xh : Option Byte} {p : List Byte} {k : Nat} {i : Instr}
    (hk : p.length = k) (h : frameClass (builtFrame h0 h1 xh k) = some i) (s : State) :
    ∃ t, build h0 h1 xh p s = .next t ∧ frameClass t.frame = some i :=
  ⟨_, rfl, hk ▸ h⟩

/-- A built frame without an extended header, serialized: four bytes (R111, R131). -/
theorem exec_serialize_of_build_none (h0 h1 : Byte) (s : State) :
    ∃ t u, build h0 h1 none [] s = .next t ∧ exec .serialize t = .next u ∧ u.flags.err = .ok ∧ u.txLen = 4#16 ∧
      Memory.readBytes u.mem txBase 4 = some [0x04#8, 0x00#8, h0, h1] := by
  obtain ⟨u, hu, hr, htx, -, hok⟩ := exec_serialize_of_no_xh_readBytes
    (s := ((s.setFrame (builtFrame h0 h1 none 0)).setMem s.mem).setErr .ok) rfl rfl
  exact ⟨_, u, rfl, hu, hok, htx, hr⟩

/-- A built frame with a three-byte payload, serialized: nine bytes, the last the computed fold (R111, R131). -/
theorem exec_serialize_of_build_three (h0 h1 xh b0 b1 b2 : Byte) {s : State} (hl : s.params.legal = true) :
    ∃ t u, build h0 h1 (some xh) [b0, b1, b2] s = .next t ∧ exec .serialize t = .next u ∧ u.flags.err = .ok ∧
      u.txLen = 9#16 ∧ Memory.readBytes u.mem txBase 9 =
        some [0x09#8, 0x00#8, h0, h1, xh, b0, b1, b2, xh ^^^ b0 ^^^ b1 ^^^ b2] := by
  obtain ⟨h4, -, -⟩ := Params.legal_iff.1 hl
  obtain ⟨m, hm, ht⟩ := build_three h0 h1 xh b0 b1 b2 s
  obtain ⟨m', hm', hu⟩ := exec_serialize_of_holdsBytes (k := 3)
    (s := ((s.setFrame (builtFrame h0 h1 (some xh) 3)).setMem m).setErr .ok) rfl (show 3 ≤ s.params.payMax by omega) rfl
    (holdsBytes_of_storedBytes hm)
  exact ⟨_, _, ht, hu, rfl, rfl, Memory.readBytes_of_read (holdsBytes_of_storedBytes hm')⟩

end Sys2Proof.Machine

namespace Sys2Proof.Proofs

open Sys2Proof.Machine

/-- Settles O15: the whole next state, with `le16` as a sum. -/
theorem parseExtractsFields : Obligations.ParseExtractsFields := by
  unfold Obligations.ParseExtractsFields
  intro s d h5 hm hd
  rw [← le16_eq]
  exact exec_parse_of_holdsBytes rfl h5 hm hd

/-- Settles O16: each command reads all its bytes before it writes any. -/
theorem commandReadOfUnwrittenByteFaults : Obligations.CommandReadOfUnwrittenByteFaults := by
  unfold Obligations.CommandReadOfUnwrittenByteFaults
  intro s j
  refine ⟨exec_parse_of_unwritten, fun hm hx hj hr => ?_, fun i hd h4 hm hj hr => ?_⟩
  · have hnone : payload s = none := Memory.readBytes_eq_none.2 ⟨j, hj, hr⟩
    exact ⟨exec_serialize_of_unwritten hm hx hnone, exec_checksum_of_unwritten hm hx hnone⟩
  · rw [exec_of_decodesStatus hd hm]
    exact decodeStatus_of_unwritten h4 hj hr

/-- Settles O23: without a payload the builder's run of stores is empty; the subscribes' is of three bytes. -/
theorem buildersLoadTheirFrames : Obligations.BuildersLoadTheirFrames := by
  unfold Obligations.BuildersLoadTheirFrames
  intro s
  exact ⟨rfl, rfl, build_three 0x50#8 0x00#8 0x00#8 0x01#8 0x00#8 0x01#8 s,
    fun hi lo => build_three 0x40#8 0x00#8 0xE3#8 0xF0#8 hi lo s⟩

/-- Settles O24: a built frame supplies no checksum, so SERIALIZE emits the fold of the extended header and payload. -/
theorem builtDatagrams : Obligations.BuiltDatagrams := by
  unfold Obligations.BuiltDatagrams
  intro s hl
  refine ⟨fun i h0 h1 hi => ?_, ?_, fun hi lo => ?_⟩
  · obtain ⟨rfl, rfl, rfl⟩ | ⟨rfl, rfl, rfl⟩ := hi
    · exact exec_serialize_of_build_none 0x30#8 0x00#8 s
    · exact exec_serialize_of_build_none 0x10#8 0x01#8 s
  · exact exec_serialize_of_build_three 0x50#8 0x00#8 0x00#8 0x01#8 0x00#8 0x01#8 hl
  · exact exec_serialize_of_build_three 0x40#8 0x00#8 0xE3#8 0xF0#8 hi lo hl

/-- Settles O26: each built frame's key is one of R88's. -/
theorem builtFramesHaveTheirClass : Obligations.BuiltFramesHaveTheirClass := by
  unfold Obligations.BuiltFramesHaveTheirClass
  exact fun s => ⟨frameClass_of_build rfl rfl s, frameClass_of_build rfl rfl s, frameClass_of_build rfl rfl s,
    fun hi lo => frameClass_of_build (k := 3) rfl rfl s⟩

end Sys2Proof.Proofs

/-! PROOFS. The host's accesses: their checks (R56, R62, R220), what each leaves (R58, R59, R61), and what each register
reads (R26, R27, R44). -/

namespace Sys2Proof.Machine

/-! ### The checks of width, alignment and mapping -/

/-- The checks an access makes before all others (R56, R62). -/
def accessTarget (p : Params) : Access → Except HostFault Target
  | .read8 o => target8 p o
  | .write8 o _ => target8 p o
  | .read32 o => target32 p o
  | .write32 o _ => target32 p o

/-- An access that fails them is its host fault, and nothing else changes. -/
theorem access_of_target_error {s : State} {a : Access} {k : HostFault} (h : accessTarget s.params a = .error k) :
    access a s = s.setFault k := by
  cases a with
  | read8 o => simp only [access, memRead8, show target8 s.params o = .error k from h]
  | write8 o v => simp only [access, memWrite8, show target8 s.params o = .error k from h]
  | read32 o => simp only [access, memRead32, show target32 s.params o = .error k from h]
  | write32 o v => simp only [access, memWrite32, show target32 s.params o = .error k from h]

theorem windowMapped_of_bufferMapped {p : Params} {o : Nat} (h : bufferMapped p o = true) : windowMapped p o := by
  rw [bufferMapped_iff, rxBase, txBase, payBase] at h
  unfold windowMapped
  omega

/-- The map's registers fill their words (R25, R63). -/
theorem windowMapped_of_regAt {p : Params} {o : Nat} {r : Reg} (h : regAt o = some r) {i : Nat} (hi : i < 4) :
    windowMapped p (o + i) := by
  have ho := regAt_eq_some.1 h
  unfold windowMapped
  omega

/-- Below the buffers every aligned mapped offset is a register's (R25, R63). -/
theorem regAt_of_windowMapped {p : Params} {o : Nat} (ho : o < 0x1000) (h4 : o % 4 = 0) (h : windowMapped p o) :
    ∃ r, regAt o = some r := by
  unfold windowMapped at h
  by_cases hfn : 0x400 ≤ o
  · exact ⟨.fnW ((o - 0x400) / 4), regAt_eq_some.2 (by simp; omega)⟩
  · have hrow : o = 0x000 ∨ o = 0x004 ∨ o = 0x008 ∨ o = 0x00C ∨ o = 0x010 ∨ o = 0x014 ∨ o = 0x018 ∨ o = 0x01C ∨
        o = 0x020 ∨ o = 0x024 ∨ o = 0x030 ∨ o = 0x034 ∨ o = 0x038 ∨ o = 0x03C ∨ o = 0x040 ∨ o = 0x080 ∨ o = 0x084 := by
      omega
    rcases hrow with rfl | rfl | rfl | rfl | rfl | rfl | rfl | rfl | rfl | rfl | rfl | rfl | rfl | rfl | rfl | rfl | rfl
    all_goals exact ⟨_, rfl⟩

theorem accessTarget_of_byte {p : Params} {a : Access} (h : (accessSpan a).2 = 1) :
    accessTarget p a = target8 p (accessSpan a).1 := by
  cases a with
  | read8 | write8 => rfl
  | read32 | write32 => cases h

theorem accessTarget_of_word {p : Params} {a : Access} (h : (accessSpan a).2 = 4) :
    accessTarget p a = target32 p (accessSpan a).1 := by
  cases a with
  | read8 | write8 => cases h
  | read32 | write32 => rfl

/-- An aligned 4-byte access that reaches an unmapped offset is `UNMAPPED` (R62). -/
theorem target32_unmapped {p : Params} {o : Nat} (h4 : o % 4 = 0) (hw : ∃ i, i < 4 ∧ ¬ windowMapped p (o + i)) :
    target32 p o = .error .unmapped := by
  obtain ⟨i, hi, hw⟩ := hw
  cases ht : target32 p o with
  | ok t =>
    obtain ⟨-, ⟨-, r, hr, -⟩ | ⟨-, -, hm⟩⟩ := target32_ok ht
    · exact absurd (windowMapped_of_regAt hr hi) hw
    · exact absurd (windowMapped_of_bufferMapped (hm i hi)) hw
  | error k =>
    rw [target32, if_neg (by omega)] at ht
    split at ht
    · split at ht
      · cases ht
      · exact ht.symm
    · split at ht
      · cases ht
      · exact ht.symm

/-- A sound access passes the checks: it reaches a register's word, or buffer bytes. -/
theorem accessTarget_of_sound {p : Params} {a : Access} (h : soundAccess p a) : ∃ t, accessTarget p a = .ok t := by
  have one {o : Nat} (h1 : 0x1000 ≤ o) (hw : ∀ i, i < 1 → windowMapped p (o + i)) : ∃ t, target8 p o = .ok t :=
    ⟨_, target8_buffer (bufferMapped_of_windowMapped h1 (hw 0 (by omega)))⟩
  have four {o : Nat} (h4 : o % 4 = 0) (hw : ∀ i, i < 4 → windowMapped p (o + i)) : ∃ t, target32 p o = .ok t := by
    by_cases ho : o < 0x1000
    · obtain ⟨r, hr⟩ := regAt_of_windowMapped ho h4 (hw 0 (by omega))
      exact ⟨_, target32_reg ho h4 hr⟩
    · exact ⟨_, target32_buffer h4 fun i hi => bufferMapped_of_windowMapped (by omega) (hw i hi)⟩
  obtain ⟨h4, h1, hw⟩ := h
  cases a with
  | read8 o | write8 o _ => exact one (h1 rfl) hw
  | read32 o | write32 o _ => exact four (h4 rfl) hw

/-! ### Accesses while a command is pending (R220) -/

/-- While a command is pending, an access that passes the checks is `BUSY_ACCESS`, but for reads R58 allows. -/
theorem access_of_busy {s : State} {a : Access} {t : Target} (hb : busy s = true)
    (ht : accessTarget s.params a = .ok t) (hr : ∀ o, a = .read32 o → readableWhileBusy t = false) :
    access a s = s.setFault .busyAccess := by
  cases a with
  | read8 o =>
    obtain ⟨rfl, -, -⟩ := target8_ok ht
    simp [access, memRead8, show target8 s.params o = .ok .buffer from ht, hb, readableWhileBusy]
  | write8 o v => simp [access, memWrite8, show target8 s.params o = .ok t from ht, hb]
  | read32 o => exact access_read32_busy hb ht (hr o rfl)
  | write32 o v => simp [access, memWrite32, show target32 s.params o = .ok t from ht, hb]

/-- The registers readable while a command is pending are those of R220. -/
theorem allowedWhileBusy_of_readable {p : Params} {o : Nat} {t : Target} (ht : target32 p o = .ok t)
    (hr : readableWhileBusy t = true) : allowedWhileBusy (.read32 o) := by
  obtain ⟨-, ⟨-, r, hreg, rfl⟩ | ⟨-, rfl, -⟩⟩ := target32_ok ht
  · have hrow := regAt_eq_some.1 hreg
    cases r with
    | status | param0 | param1 => simp at hrow; subst hrow; simp [allowedWhileBusy]
    | _ => cases hr
  · cases hr

theorem access_read_status (s : State) :
    access (.read32 0x004) s =
      if busy s then s.countDraw.setReadData (busyStatusWord s.draws) else s.setReadData (idleStatusWord s.flags) := by
  have ht : target32 s.params 0x004 = .ok (.reg .status) := target32_reg (by omega) rfl rfl
  cases hb : busy s <;> simp [access, memRead32, ht, readReg, readableWhileBusy, regWord, hb]

/-! ### What each access leaves, register by register -/

/-- The ways an access can change the state, by the access (R58, R59). -/
inductive AccessRow : Access → State → State → Prop
  | faulted (a : Access) (s : State) (k : HostFault) : AccessRow a s (s.setFault k)
  | read (a : Access) (s : State) (v : Word) : AccessRow a s (s.setReadData v)
  | readBusy (a : Access) (s : State) (v : Word) (hb : busy s = true) : AccessRow a s (s.countDraw.setReadData v)
  | cmd (s : State) (v : Word) : AccessRow (.write32 0x000 v) s (s.setCommand v)
  | rxLen (s : State) (v : Word) (n : Half) : AccessRow (.write32 0x008 v) s (s.setRxLen n)
  | fLen (s : State) (v : Word) (n : Half) : AccessRow (.write32 0x010 v) s (s.setFrame { s.frame with len := n })
  | fHdr (s : State) (v : Word) (h0 h1 : Byte) :
      AccessRow (.write32 0x014 v) s (s.setFrame { s.frame with hdr0 := h0, hdr1 := h1 })
  | fXh (s : State) (v : Word) (x : Byte) (b : Bool) :
      AccessRow (.write32 0x018 v) s (s.setFrame { s.frame with xh := x, xhValid := b })
  | fPlen (s : State) (v : Word) (n : Half) : AccessRow (.write32 0x01C v) s (s.setFrame { s.frame with plen := n })
  | fCk (s : State) (v : Word) (c : Byte) (b : Bool) :
      AccessRow (.write32 0x020 v) s (s.setFrame { s.frame with ck := c, ckValid := b })
  | store8 (o : Nat) (v : Byte) (s : State) (m : Memory) (ho : 0x1000 ≤ o) : AccessRow (.write8 o v) s (s.setMem m)
  | store32 (o : Nat) (v : Word) (s : State) (m : Memory) (ho : 0x1000 ≤ o) : AccessRow (.write32 o v) s (s.setMem m)

/-- A register's store is its row's. -/
theorem writeReg_row {o : Nat} {r : Reg} {v : Word} {s t : State} (hr : regAt o = some r)
    (h : writeReg r v s = some t) : AccessRow (.write32 o v) s t := by
  have hrow := regAt_eq_some.1 hr
  cases r <;> cases h <;> simp at hrow <;> subst hrow
  · exact .cmd s v
  · exact .rxLen s v _
  · exact .fLen s v _
  · exact .fHdr s v _ _
  · exact .fXh s v _ _
  · exact .fPlen s v _
  · exact .fCk s v _ _

theorem readReg_row (a : Access) (r : Reg) (s : State) : AccessRow a s (readReg r s) := by
  unfold readReg
  split
  · next h => exact .readBusy a s _ h.2
  · exact .read a s _

/-- A buffer's store, or `WRITE_RO` (R61). -/
theorem writeBuffer_cases (o : Nat) (bs : List Byte) (s : State) :
    (∃ k, writeBuffer o bs s = s.setFault k) ∨ ∃ m, writeBuffer o bs s = s.setMem m := by
  unfold writeBuffer
  split
  · exact .inl ⟨_, rfl⟩
  · exact .inr ⟨_, rfl⟩

/-- Every access changes the state in one of these ways. -/
theorem access_row (a : Access) (s : State) : AccessRow a s (access a s) := by
  cases ht : accessTarget s.params a with
  | error k =>
    rw [access_of_target_error ht]
    exact .faulted a s k
  | ok t =>
    cases a with
    | read8 o =>
      simp only [access, memRead8, show target8 s.params o = .ok t from ht]
      split
      · exact .faulted ..
      · split
        · exact .faulted ..
        · exact .read ..
    | read32 o =>
      simp only [access, memRead32, show target32 s.params o = .ok t from ht]
      split
      · exact .faulted ..
      · split
        · exact readReg_row ..
        · split
          · exact .read ..
          · exact .faulted ..
    | write8 o v =>
      obtain ⟨-, ho, -⟩ := target8_ok ht
      simp only [access, memWrite8, show target8 s.params o = .ok t from ht]
      split
      · exact .faulted ..
      · obtain ⟨k, hk⟩ | ⟨m, hm⟩ := writeBuffer_cases o [v] s
        · rw [hk]; exact .faulted ..
        · rw [hm]; exact .store8 o v s m ho
    | write32 o v =>
      simp only [access, memWrite32, show target32 s.params o = .ok t from ht]
      split
      · exact .faulted ..
      · obtain ⟨-, ⟨-, r, hr, rfl⟩ | ⟨ho, rfl, -⟩⟩ := target32_ok ht
        · dsimp only
          split
          · next h => exact writeReg_row hr h
          · exact .faulted ..
        · obtain ⟨k, hk⟩ | ⟨m, hm⟩ := writeBuffer_cases o (bytesOfWord v) s
          · dsimp only; rw [hk]; exact .faulted ..
          · dsimp only; rw [hm]; exact .store32 o v s m ho

section
variable {a : Access} {s t : State} (h : AccessRow a s t)
include h

/-- R58: a read changes nothing in the block; only a read of `STATUS` while `BUSY` = 1 takes a draw (R186). -/
theorem AccessRow.of_read (h8 : ∀ o v, a ≠ .write8 o v) (h32 : ∀ o v, a ≠ .write32 o v) :
    t = { s with readData := t.readData, draws := t.draws, fault := t.fault } ∧
      (s.pending = none → t.draws = s.draws) := by
  cases h with
  | faulted | read => exact ⟨rfl, fun _ => rfl⟩
  | readBusy _ _ v hb => exact ⟨rfl, fun hp => by simp [busy, hp] at hb⟩
  | store8 o v => exact absurd rfl (h8 o v)
  | store32 o v => exact absurd rfl (h32 o v)
  | _ => exact absurd rfl (h32 _ _)

/-- R26: only a write of `CMD` starts a command. -/
theorem AccessRow.command_eq (ha : ∀ v, a ≠ .write32 0x000 v) : t.pending = s.pending ∧ t.cmd = s.cmd := by
  cases h with
  | cmd _ v => exact absurd rfl (ha v)
  | _ => exact ⟨rfl, rfl⟩

theorem AccessRow.rxLen_eq (ha : ∀ v, a ≠ .write32 0x008 v) : t.rxLen = s.rxLen := by
  cases h with
  | rxLen _ v => exact absurd rfl (ha v)
  | _ => rfl

theorem AccessRow.len_eq (ha : ∀ v, a ≠ .write32 0x010 v) : t.frame.len = s.frame.len := by
  cases h with
  | fLen _ v => exact absurd rfl (ha v)
  | _ => rfl

theorem AccessRow.hdr_eq (ha : ∀ v, a ≠ .write32 0x014 v) :
    t.frame.hdr0 = s.frame.hdr0 ∧ t.frame.hdr1 = s.frame.hdr1 := by
  cases h with
  | fHdr _ v => exact absurd rfl (ha v)
  | _ => exact ⟨rfl, rfl⟩

theorem AccessRow.xh_eq (ha : ∀ v, a ≠ .write32 0x018 v) :
    t.frame.xh = s.frame.xh ∧ t.frame.xhValid = s.frame.xhValid := by
  cases h with
  | fXh _ v => exact absurd rfl (ha v)
  | _ => exact ⟨rfl, rfl⟩

theorem AccessRow.plen_eq (ha : ∀ v, a ≠ .write32 0x01C v) : t.frame.plen = s.frame.plen := by
  cases h with
  | fPlen _ v => exact absurd rfl (ha v)
  | _ => rfl

theorem AccessRow.ck_eq (ha : ∀ v, a ≠ .write32 0x020 v) :
    t.frame.ck = s.frame.ck ∧ t.frame.ckValid = s.frame.ckValid := by
  cases h with
  | fCk _ v => exact absurd rfl (ha v)
  | _ => exact ⟨rfl, rfl⟩

/-- A register access stores no buffer byte. -/
theorem AccessRow.mem_eq (ha : (accessSpan a).1 < 0x1000) : t.mem = s.mem := by
  cases h with
  | store8 o v _ m ho | store32 o v _ m ho => exact absurd ho (Nat.not_le.2 ha)
  | _ => rfl

end

/-! ### Accesses that complete -/

/-- The writable registers are those R61 does not name. -/
theorem writeReg_isSome {o : Nat} {r : Reg} (hr : regAt o = some r) (ho : ¬ readOnlyRegister o) (v : Word) (s : State) :
    ∃ t, writeReg r v s = some t := by
  have hrow := regAt_eq_some.1 hr
  unfold readOnlyRegister at ho
  cases r with
  | cmd | rxLen | fLen | fHdr | fXh | fPlen | fCk => exact ⟨_, rfl⟩
  | _ => exfalso; simp at hrow; omega

theorem writeReg_fault {r : Reg} {v : Word} {s t : State} (h : writeReg r v s = some t) : t.fault = s.fault := by
  cases r <;> cases h <;> rfl

/-- A 4-byte read of mapped bytes that all hold values faults nothing (R58). -/
theorem access_read32_fault {s : State} {o : Nat} (hp : s.pending = none) (h4 : o % 4 = 0)
    (hm : ∀ i, i < 4 → bufferMapped s.params (o + i) = true)
    (hv : ∀ i, i < 4 → (Memory.read s.mem (o + i)).isSome = true) : (access (.read32 o) s).fault = s.fault := by
  have hb : holdsBytes s.mem o 4 fun i => (Memory.read s.mem (o + i)).getD 0#8 := fun i hi => by
    obtain ⟨b, hb⟩ := Option.isSome_iff_exists.1 (hv i hi)
    simp [hb]
  rw [access_read32_of_holdsBytes hp h4 hm hb]
  rfl

/-! ### Register words, as numbers and as bits -/

/-- A flag at bit `i` above a low part. -/
theorem toNat_or_flag {lo : Word} {i : Nat} (b : Bool) (hlo : lo.toNat < 2 ^ i) (hi : i < 32) :
    (lo ||| bitAt b i).toNat = lo.toNat + 2 ^ i * b.toNat := by
  have h := toNat_or_bitAt (b = true) hlo hi
  rw [Bool.decide_eq_true] at h
  rw [h]
  cases b <;> rfl

/-- R27: the word of the code and the three flags. -/
theorem idleStatusWord_toNat (f : Flags) :
    (idleStatusWord f).toNat = (errByte f.err).toNat + 0x100 * f.cksumOk.toNat + 0x200 * f.sValid.toNat +
      0x400 * f.fnTrunc.toNat := by
  have he := (errByte f.err).isLt
  have h0 : ((errByte f.err).setWidth 32).toNat = (errByte f.err).toNat := by
    rw [BitVec.toNat_setWidth, Nat.mod_eq_of_lt (by omega)]
  have hc := f.cksumOk.toNat_lt
  have hs := f.sValid.toNat_lt
  have h8 := toNat_or_flag f.cksumOk (lo := (errByte f.err).setWidth 32) (i := 8) (by omega) (by omega)
  rw [h0] at h8
  have h9 := toNat_or_flag f.sValid (i := 9) (lo := (errByte f.err).setWidth 32 ||| bitAt f.cksumOk 8)
    (by rw [h8]; omega) (by omega)
  rw [h8] at h9
  rw [idleStatusWord, toNat_or_flag f.fnTrunc (by rw [h9]; omega) (by omega), h9]
  rfl

theorem busyStatusWord_bit31 (n : Nat) : (busyStatusWord n).getLsbD 31 = true := by
  simp [busyStatusWord, bitAt]

/-- Bit 31 of `STATUS` is 0 while no command is pending (R27, R44). -/
theorem idleStatusWord_bit31 (f : Flags) : (idleStatusWord f).getLsbD 31 = false := by
  have hw := idleStatusWord_toNat f
  have he := (errByte f.err).isLt
  have hc := f.cksumOk.toNat_lt
  have hs := f.sValid.toNat_lt
  have ht := f.fnTrunc.toNat_lt
  exact Nat.testBit_lt_two_pow (by omega)

/-- What a 4-byte read of an idle block's register returns. -/
theorem readData_read32 {s : State} {o : Nat} {r : Reg} (hp : s.pending = none) (ho : o < 0x1000) (h4 : o % 4 = 0)
    (hr : regAt o = some r) : (access (.read32 o) s).readData = some (regWord s r) := by
  rw [access_read32_reg hp ho h4 hr]
  rfl

/-- A 4-byte write of a register that has a store leaves what the store leaves (R59). -/
theorem access_write32_of_writeReg {s t : State} {o : Nat} {r : Reg} {v : Word} (hp : s.pending = none)
    (ho : o < 0x1000) (h4 : o % 4 = 0) (hr : regAt o = some r) (hw : writeReg r v s = some t) :
    access (.write32 o v) s = t := by
  rw [access_write32_reg hp ho h4 hr, hw, Option.getD_some]

/-- What a 4-byte read returns of a register, other than `CMD`, that was just written. -/
theorem readData_of_written {s t : State} {o : Nat} {r : Reg} {v : Word} (hp : s.pending = none) (ho : o < 0x1000)
    (h4 : o % 4 = 0) (hr : regAt o = some r) (hw : writeReg r v s = some t) (hc : r ≠ .cmd) :
    (access (.read32 o) (access (.write32 o v) s)).readData = some (regWord t r) := by
  have hpt : t.pending = none := by
    cases r with
    | cmd => exact absurd rfl hc
    | rxLen | fLen | fHdr | fXh | fPlen | fCk => cases hw; exact hp
    | _ => cases hw
  rw [access_write32_of_writeReg hp ho h4 hr hw, readData_read32 hpt ho h4 hr]

theorem toNat_setWidth_word {w : Nat} (x : BitVec w) (h : w ≤ 32) : (x.setWidth 32).toNat = x.toNat :=
  BitVec.toNat_setWidth_of_le h

/-- R40: the mode's code and the raw selector. -/
theorem regWord_sMode_toNat (s : State) :
    (regWord s .sMode).toNat = (modeBits s.status.mode).toNat + 0x100 * s.status.sel.toNat := by
  have hm := toNat_setWidth_word (modeBits s.status.mode) (by omega)
  have hs := toNat_setWidth_word s.status.sel (by omega)
  have h2 := (modeBits s.status.mode).isLt
  have h3 := s.status.sel.isLt
  rw [regWord, toNat_or_shiftLeft (by omega) (by omega), hm, hs]
  rfl

theorem regWord_sDir_toNat (s : State) : (regWord s .sDir).toNat = if s.status.dir = .forward then 1 else 0 := by
  rw [regWord]
  cases s.status.dir <;> rfl

/-! ### Register fields of a written word -/

theorem extractLsb'_half (v : Word) : v.extractLsb' 0 16 = BitVec.ofNat 16 v.toNat := by
  rw [← extractLsb'_ofNat_half, BitVec.ofNat_toNat, BitVec.setWidth_eq]

theorem extractLsb'_byte0 (v : Word) : v.extractLsb' 0 8 = BitVec.ofNat 8 v.toNat := by
  simpa using byte_of_word v 0

theorem extractLsb'_byte1 (v : Word) : v.extractLsb' 8 8 = BitVec.ofNat 8 (v.toNat / 0x100) :=
  byte_of_word v 1

/-- A 16-bit field reads back with the zero fields as 0. -/
theorem half_readback (v : Word) : (v.extractLsb' 0 16).setWidth 32 = v &&& 0x0000FFFF#32 := by
  ext n hn; interval_cases n <;> simp

/-- Two bytes read back with the zero fields as 0. -/
theorem bytes_readback (v : Word) :
    (v.extractLsb' 0 8).setWidth 32 ||| (v.extractLsb' 8 8).setWidth 32 <<< 8 = v &&& 0x0000FFFF#32 := by
  ext n hn; interval_cases n <;> simp

/-- A byte and its valid bit read back with the zero fields as 0. -/
theorem byte_flag_readback (v : Word) :
    (v.extractLsb' 0 8).setWidth 32 ||| bitAt (v.getLsbD 8) 8 = v &&& 0x000001FF#32 := by
  unfold bitAt; ext n hn; interval_cases n <;> simp

end Sys2Proof.Machine

namespace Sys2Proof.Proofs

open Sys2Proof.Machine

/-- Settles O37: by the three tables. -/
theorem codeNumbers : Obligations.CodeNumbers := by
  unfold Obligations.CodeNumbers
  decide

/-- Settles O38: each clause is one branch of the checks; an aligned register's word lies inside the map whole. -/
theorem unsoundAccessFaults : Obligations.UnsoundAccessFaults := by
  unfold Obligations.UnsoundAccessFaults
  intro s a
  refine ⟨fun hn ho => ?_, fun hn h4 => ?_, fun hn ho hw => ?_, fun hn h4 hw _ => ?_⟩ <;>
    refine access_of_target_error ?_
  · rw [accessTarget_of_byte hn, target8, if_pos ho]
  · rw [accessTarget_of_word hn, target32, if_pos h4]
  · rw [accessTarget_of_byte hn, target8, if_neg (by omega), if_neg fun hm => hw (windowMapped_of_bufferMapped hm)]
  · rw [accessTarget_of_word hn]
    exact target32_unmapped h4 hw

/-- Settles O40: a sound access passes the checks, and of those that do only R220's reads do not fault. -/
theorem busyAccessFaults : Obligations.BusyAccessFaults := by
  unfold Obligations.BusyAccessFaults
  intro s a w _ hp hs
  have hb : busy s = true := by rw [busy, hp]; rfl
  obtain ⟨t, ht⟩ := accessTarget_of_sound hs
  refine ⟨fun hna => ?_, fun ha => ?_⟩
  · refine access_of_busy hb ht fun o ho => ?_
    subst ho
    rw [← Bool.not_eq_true]
    exact fun hr => hna (allowedWhileBusy_of_readable ht hr)
  · obtain rfl | rfl | rfl := ha
    · rw [access_read_status, if_pos hb]
      rfl
    · rw [access_read32_readable (r := .param0) (by omega) rfl rfl rfl (by simp)]
      rfl
    · rw [access_read32_readable (r := .param1) (by omega) rfl rfl rfl (by simp)]
      rfl

/-- Settles O41: a sound access reaches a register or mapped buffer bytes, and then nothing is left that could fault. -/
theorem soundAccessCompletes : Obligations.SoundAccessCompletes := by
  unfold Obligations.SoundAccessCompletes
  intro s a _ hp ⟨h4, h1, hw⟩ hok
  have one {o : Nat} (ho : 0x1000 ≤ o) (hw : ∀ i, i < 1 → windowMapped s.params (o + i)) :
      bufferMapped s.params o = true := bufferMapped_of_windowMapped ho (hw 0 Nat.one_pos)
  have four {o : Nat} (ho : ¬ o < 0x1000) (hw : ∀ i, i < 4 → windowMapped s.params (o + i)) :
      ∀ i, i < 4 → bufferMapped s.params (o + i) = true := fun i hi =>
    bufferMapped_of_windowMapped (by omega) (hw i hi)
  cases a with
  | read8 o =>
    obtain ⟨b, hb⟩ := Option.isSome_iff_exists.1 hok
    have hm : bufferMapped s.params o = true := one (h1 rfl) hw
    rw [access_read8_of_read hp hm hb]
    rfl
  | read32 o =>
    by_cases ho : o < 0x1000
    · obtain ⟨r, hr⟩ := regAt_of_windowMapped ho (h4 rfl) (hw 0 (Nat.succ_pos 3))
      rw [access_read32_reg hp ho (h4 rfl) hr]
      rfl
    · exact access_read32_fault hp (h4 rfl) (four ho hw) (hok.resolve_left ho)
  | write8 o v =>
    have hm : bufferMapped s.params o = true := one (h1 rfl) hw
    rw [access_write8_buffer hp hm, writeBuffer_of_not_inTx _ _ (inTx_eq_false hok)]
    rfl
  | write32 o v =>
    obtain ⟨hro, htx⟩ := hok
    by_cases ho : o < 0x1000
    · obtain ⟨r, hr⟩ := regAt_of_windowMapped ho (h4 rfl) (hw 0 (Nat.succ_pos 3))
      obtain ⟨t, ht⟩ := writeReg_isSome hr hro v s
      rw [access_write32_reg hp ho (h4 rfl) hr, ht]
      exact writeReg_fault ht
    · have h4' : o % 4 = 0 := h4 rfl
      rw [access_write32_buffer hp h4' (four ho hw), writeBuffer_of_not_inTx _ _ (inTx_eq_false htx)]
      rfl

/-- Settles O42: a missing byte makes the read's lookup answer none. -/
theorem hostReadOfUnwrittenByteFaults : Obligations.HostReadOfUnwrittenByteFaults := by
  unfold Obligations.HostReadOfUnwrittenByteFaults
  intro s o _ hp ho
  refine ⟨fun hw hr => ?_, fun h4 hw hr => ?_⟩
  · rw [access_read8_buffer hp (bufferMapped_of_windowMapped ho hw), hr]
    rfl
  · rw [access_read32_buffer hp h4 fun i hi => bufferMapped_of_windowMapped (by omega) (hw i hi),
      Memory.readBytes_eq_none.2 hr]
    rfl

/-- Settles O43: each kind of access changes its own register, or the buffers, alone. -/
theorem onlyCmdWriteHasSideEffect : Obligations.OnlyCmdWriteHasSideEffect := by
  unfold Obligations.OnlyCmdWriteHasSideEffect
  intro s a
  have h := access_row a s
  have he := access_effect a s
  obtain ⟨hfl, htx, hck, hst, hmv⟩ := he.engine_fields
  refine ⟨h.of_read, fun ha => ?_, h.rxLen_eq, h.len_eq, h.hdr_eq, h.xh_eq, h.plen_eq, h.ck_eq, h.mem_eq⟩
  obtain ⟨hp, hc⟩ := h.command_eq ha
  exact ⟨hp, hc, hfl, htx, hck, hst, he.params_eq, hmv⟩

/-- Settles O45: `CMD` is the register at offset 0. -/
theorem cmdWriteStartsCommand : Obligations.CmdWriteStartsCommand := by
  unfold Obligations.CmdWriteStartsCommand
  intro s w hp
  refine ⟨?_, readData_read32 (r := .cmd) hp (by omega) rfl rfl⟩
  rw [access_write32_reg (r := .cmd) hp (by omega) rfl rfl]
  rfl

/-- Settles O46: the busy word sets bit 31 above a draw of 31 bits; the idle word is below 0x800. -/
theorem statusReadsBusyAndFlags : Obligations.StatusReadsBusyAndFlags := by
  unfold Obligations.StatusReadsBusyAndFlags
  intro s
  rw [access_read_status]
  cases hp : s.pending with
  | none =>
    have hb : ¬ busy s = true := by simp [busy, hp]
    rw [if_neg hb]
    exact ⟨_, rfl, rfl, by rw [idleStatusWord_bit31]; simp, fun _ => idleStatusWord_toNat s.flags⟩
  | some w =>
    have hb : busy s = true := by rw [busy, hp]; rfl
    rw [if_pos hb]
    exact ⟨_, rfl, rfl, by simp [busyStatusWord_bit31], nofun⟩

/-- Settles O48: each register's store keeps its defined fields, and its word puts them back where they were. -/
theorem registerWritesReadBack : Obligations.RegisterWritesReadBack := by
  unfold Obligations.RegisterWritesReadBack
  intro s v hp
  refine ⟨fun o mask ho => ?_, ?_, ?_, ?_, ?_, ?_, ?_⟩
  · obtain ⟨rfl | rfl | rfl | rfl, rfl⟩ | ⟨rfl | rfl, rfl⟩ := ho
    · exact (readData_of_written (r := .rxLen) hp (by omega) rfl rfl rfl nofun).trans (congrArg some (half_readback v))
    · exact (readData_of_written (r := .fLen) hp (by omega) rfl rfl rfl nofun).trans (congrArg some (half_readback v))
    · exact (readData_of_written (r := .fHdr) hp (by omega) rfl rfl rfl nofun).trans (congrArg some (bytes_readback v))
    · exact (readData_of_written (r := .fPlen) hp (by omega) rfl rfl rfl nofun).trans (congrArg some (half_readback v))
    · exact (readData_of_written (r := .fXh) hp (by omega) rfl rfl rfl nofun).trans
        (congrArg some (byte_flag_readback v))
    · exact (readData_of_written (r := .fCk) hp (by omega) rfl rfl rfl nofun).trans
        (congrArg some (byte_flag_readback v))
  · rw [access_write32_of_writeReg (r := .rxLen) hp (by omega) rfl rfl rfl, extractLsb'_half]; rfl
  · rw [access_write32_of_writeReg (r := .fLen) hp (by omega) rfl rfl rfl, extractLsb'_half]; rfl
  · rw [access_write32_of_writeReg (r := .fHdr) hp (by omega) rfl rfl rfl, extractLsb'_byte0, extractLsb'_byte1]; rfl
  · rw [access_write32_of_writeReg (r := .fXh) hp (by omega) rfl rfl rfl, extractLsb'_byte0]; rfl
  · rw [access_write32_of_writeReg (r := .fPlen) hp (by omega) rfl rfl rfl, extractLsb'_half]; rfl
  · rw [access_write32_of_writeReg (r := .fCk) hp (by omega) rfl rfl rfl, extractLsb'_byte0]; rfl

/-- Settles O49: each register's word holds its field at bit 0, with zeros above; bitmap word `j` holds bits `32 j` to
`32 j + 31`. -/
theorem resultRegistersRead : Obligations.ResultRegistersRead := by
  unfold Obligations.ResultRegistersRead
  intro s hp
  refine ⟨⟨_, readData_read32 (r := .txLen) hp (by omega) rfl rfl, toNat_setWidth_word _ (by omega)⟩,
    ⟨_, readData_read32 (r := .ckCalc) hp (by omega) rfl rfl, toNat_setWidth_word _ (by omega)⟩,
    ⟨_, readData_read32 (r := .sAddr) hp (by omega) rfl rfl, toNat_setWidth_word _ (by omega)⟩,
    ⟨_, readData_read32 (r := .sMode) hp (by omega) rfl rfl, regWord_sMode_toNat s⟩,
    ⟨_, readData_read32 (r := .sSpeed) hp (by omega) rfl rfl, toNat_setWidth_word _ (by omega)⟩,
    ⟨_, readData_read32 (r := .sDir) hp (by omega) rfl rfl, regWord_sDir_toNat s⟩,
    ⟨_, readData_read32 (r := .sFnCnt) hp (by omega) rfl rfl, toNat_setWidth_word _ (by omega)⟩, fun j hj => ?_⟩
  have hr : regAt (0x400 + 4 * j) = some (.fnW j) := regAt_eq_some.2 (by simp; omega)
  refine ⟨_, readData_read32 hp (by omega) (by omega) hr, fun i hi => ?_⟩
  simp [regWord, hi]

end Sys2Proof.Proofs
